-- ==== Sys2Proof/Word.lean ====
section
/-! DEFINITION. The units of data of the CORE: bytes, nibbles and 16-bit numbers (`00_scope.md` R5, R6).
All values are unsigned and bit 0 is the least significant (R6). -/

namespace Sys2Proof

/-- One element of the input stream, `BYTE_W` = 8 bits (R5). -/
abbrev Byte := BitVec 8

/-- Four bits; a byte's high nibble is `b[7:4]`, its low nibble `b[3:0]` (R56). -/
abbrev Nibble := BitVec 4

/-- A 16-bit header or body field, first byte most significant (`20_memory.md` R55). -/
abbrev Word16 := BitVec 16

end Sys2Proof
end

