-- ==== Sys2Proof/Config.lean ====
section
/-! DEFINITION. The implementation parameters of `00_scope.md` R5 and the one free value of the model. -/

namespace Sys2Proof.Config

/-- `DELIM`, the frame delimiter (R5). -/
abbrev delim : Byte := 0x7E

/-- `ESC`, the escape marker (R5). -/
abbrev escMark : Byte := 0x7D

/-- The byte after the marker that stands for the delimiter (`30_encoding.md` R82). -/
abbrev escDelim : Byte := 0x02

/-- The byte after the marker that stands for the marker itself (`30_encoding.md` R82). -/
abbrev escSelf : Byte := 0x01

/-- `HDR_LEN`, the fixed header length in bytes (R5). -/
abbrev hdrLen : Nat := 12

/-- `PB_SIZE`, the payload buffer size in bytes: 12 + 1023 + 1 (R5). -/
abbrev pbSize : Nat := 1036

/-- `LEN_MAX`, where the 11-bit counter `len` saturates (R5). -/
abbrev lenMax : BitVec 11 := 2047

/-- The longest body the 10-bit length field can declare (R5, `LEN_BITS`). -/
abbrev bodyMax : Nat := 1023

/-- `REG_MIN_BODY`: 2 + 2 + 5 + 20 + 7 + 1 bytes (R5). -/
abbrev regMinBody : Nat := 37

/-- `PASS_MIN_BODY`: the type byte (R5). -/
abbrev passMinBody : Nat := 1

/-- The parameters of R5 that a model takes as arguments. They stand in `Machine.State.cfg`, so that a
statement about every state is a statement about every value of them; no step changes them (R351). -/
structure Params where
  /-- `STRICT_FLAGS`: discard frames whose bodyProperties bits 15:10 are not all zero (`44_header.md` R225). -/
  strictFlags : Bool
  /-- `LOC_MIN_BODY`, OPEN, 0 to 1023: the least body of a location report (`45_dispatch.md` R258). -/
  locMinBody : Fin 1024
  deriving DecidableEq, Repr

/-- `N_CHANNELS`, OPEN, at least 1 (R5): a positive number. `Machine/Channels.lean` takes it as an argument. -/
abbrev NChannels := PNat

/-- FREE VALUE (log 4): what payload-buffer byte `a` reads as while nothing has written it since
reset. The spec leaves it unspecified (`10_state.md` R32; I6: any value). It has no body: nothing can be proved of its value. -/
opaque pbUnwritten (a : Nat) : Byte

end Sys2Proof.Config
end

