-- ==== Sys2Proof/Syntax.lean ====
section
/-! DEFINITION. The operations of the CORE: one constructor of `Instr` per row of `spec/opcode_table.json`
(`00_scope.md` R2), and the groups of rows among which a decode table chooses (`30_encoding.md` R95 to R97). -/

namespace Sys2Proof

/-- The control register `fsm` (`10_state.md` R20, R21). -/
inductive Fsm where
  /-- No start delimiter is outstanding; value 0. -/
  | hunt
  /-- A start delimiter has been taken and its partner has not; value 1. -/
  | inframe
  deriving DecidableEq, Repr

/-- The operations of the CORE, its frame dispatcher and its escape encoder. -/
inductive Instr where
  /-- SKIP: byte `b` taken outside a frame (`42_framer.md` R172). -/
  | skip (b : Byte)
  /-- SOF: start delimiter (R173). -/
  | sof
  /-- DATA: byte `b` stands for itself (R174). -/
  | data (b : Byte)
  /-- ESC: escape marker (`41_escape_codec.md` R141). -/
  | esc
  /-- ESC02: second half of 7D 02 (R142). -/
  | esc02
  /-- ESC01: second half of 7D 01 (R143). -/
  | esc01
  /-- ESC7D: a marker after a marker (R144). -/
  | esc7d
  /-- ESCX: any other byte `b` after a marker (R145). -/
  | escx (b : Byte)
  /-- EOF: end delimiter (`42_framer.md` R175). -/
  | eof
  /-- CLOSE: the connection ended (R183). -/
  | close
  /-- RESET: reset of the unit (R184). -/
  | reset
  /-- ENC7E: encode the delimiter (`41_escape_codec.md` R151). -/
  | enc7e
  /-- ENC7D: encode the marker (R152). -/
  | enc7d
  /-- ENCLIT: encode byte `b`, which stands for itself (R153). -/
  | enclit (b : Byte)
  /-- TERM_ACK: message 0x0001 (`45_dispatch.md` R259). -/
  | termAck
  /-- HEARTBEAT: message 0x0002 (R256). -/
  | heartbeat
  /-- REGISTER: message 0x0100 (R254). -/
  | register
  /-- AUTH: message 0x0102 (R255). -/
  | auth
  /-- LOCATION: message 0x0200 (R257). -/
  | location
  /-- TEXT: message 0x0300 (R260). -/
  | text
  /-- CTRL_RESP: message 0x0500 (R261). -/
  | ctrlResp
  /-- PASSTHRU: message 0x0900 (R263). -/
  | passthru
  /-- TIMESYNC: message 0x0F01 (R262). -/
  | timesync
  /-- UNRECOGNIZED: any other message id (R264). -/
  | unrecognized (id : Word16)
  deriving DecidableEq, Repr

/-- The group of rows a byte (or event) is decoded among: what selects the table besides the bits
themselves (`30_encoding.md` R95, R96, R97). -/
inductive Group where
  /-- Byte taken in `HUNT` (R95). -/
  | hunt
  /-- Byte taken in `INFRAME` with the flag `esc` (R95). -/
  | inframe (esc : Bool)
  /-- The event `Close`: no bits (R95). -/
  | closeEvent
  /-- The event `Reset`: no bits (R95). -/
  | resetEvent
  /-- Byte entering the escape encoder (R96). -/
  | txByte
  /-- The two bytes of a `messageId`, more significant first (R97). -/
  | msgId
  deriving DecidableEq, Repr

/-- The ten dispatch operations, as the `messageId` selects them (`30_encoding.md` R97). -/
inductive MsgOp where
  | termAck
  | heartbeat
  | register
  | auth
  | location
  | text
  | ctrlResp
  | passthru
  | timesync
  | unrecognized (id : Word16)
  deriving DecidableEq, Repr

end Sys2Proof
end

