-- ==== Sys2Proof/WellFormed.lean ====
section
/-! DEFINITION. When a term of `Instr` is an operation that some input selects: the default row of a group
holds only bytes (or ids) that no other row of the group matches (`30_encoding.md` R95, R96, R97). -/

namespace Sys2Proof

/-- The nine message ids of R97 that have a row of their own. -/
def knownIds : List Word16 :=
  [0x0001, 0x0002, 0x0100, 0x0102, 0x0200, 0x0300, 0x0500, 0x0900, 0x0F01]

/-- The operation is one an input selects (R95, R96, R97). -/
def Instr.wf : Instr → Bool
  | .skip b => b != Config.delim
  | .data b => b != Config.delim && b != Config.escMark
  | .escx b =>
    b != Config.delim && b != Config.escMark && b != Config.escDelim && b != Config.escSelf
  | .enclit b => b != Config.delim && b != Config.escMark
  | .unrecognized id => !knownIds.contains id
  | .sof | .esc | .esc02 | .esc01 | .esc7d | .eof | .close | .reset => true
  | .enc7e | .enc7d => true
  | .termAck | .heartbeat | .register | .auth | .location | .text | .ctrlResp => true
  | .passthru | .timesync => true

end Sys2Proof
end

