-- ==== Sys2Proof/Decode.lean ====
section
/-! DEFINITION. The three decode tables of `30_encoding.md` (R95, R96, R97), an encoder written from the
same tables, and the reading of one table word for the host. -/

namespace Sys2Proof

/-- Rows of R95 with `fsm = HUNT`. The rules of its two operations (`42_framer.md` R172, R173) ask for
`fsm` and `b` only; `esc` is 0 there (R22; log 8). -/
def decodeHunt (b : Byte) : Instr :=
  if b = Config.delim then .sof else .skip b

/-- Rows of R95 with `fsm = INFRAME`. -/
def decodeInframe (esc : Bool) (b : Byte) : Instr :=
  if b = Config.delim then .eof
  else if esc then
    if b = Config.escDelim then .esc02
    else if b = Config.escSelf then .esc01
    else if b = Config.escMark then .esc7d
    else .escx b
  else
    if b = Config.escMark then .esc else .data b

/-- The byte operation selected by (`fsm`, `esc`, `b`) (R95). -/
def decodeRx (fsm : Fsm) (esc : Bool) (b : Byte) : Instr :=
  match fsm with
  | .hunt => decodeHunt b
  | .inframe => decodeInframe esc b

/-- The group of R95 the next input byte is decoded in. -/
def rxGroup (fsm : Fsm) (esc : Bool) : Group :=
  match fsm with
  | .hunt => .hunt
  | .inframe => .inframe esc

/-- The transmit byte operation selected by `b` (R96). -/
def decodeTx (b : Byte) : Instr :=
  if b = Config.delim then .enc7e
  else if b = Config.escMark then .enc7d
  else .enclit b

/-- The dispatch operation selected by comparison of all 16 bits of `messageId` (R97). -/
def selectMsg (id : Word16) : MsgOp :=
  if id = 0x0001 then .termAck
  else if id = 0x0002 then .heartbeat
  else if id = 0x0100 then .register
  else if id = 0x0102 then .auth
  else if id = 0x0200 then .location
  else if id = 0x0300 then .text
  else if id = 0x0500 then .ctrlResp
  else if id = 0x0900 then .passthru
  else if id = 0x0F01 then .timesync
  else .unrecognized id

/-- The row of `opcode_table.json` a dispatch operation is. -/
def instrOfMsgOp : MsgOp → Instr
  | .termAck => .termAck
  | .heartbeat => .heartbeat
  | .register => .register
  | .auth => .auth
  | .location => .location
  | .text => .text
  | .ctrlResp => .ctrlResp
  | .passthru => .passthru
  | .timesync => .timesync
  | .unrecognized id => .unrecognized id

/-- Two bytes read big-endian (`20_memory.md` R55). -/
def be16OfBytes (hi lo : Byte) : Word16 := BitVec.ofNat 16 (hi.toNat * 256 + lo.toNat)

/-- The two bytes of a 16-bit field, `[v[15:8], v[7:0]]` (R55). -/
def bytesOfWord (v : Word16) : List Byte := [v.extractLsb' 8 8, v.extractLsb' 0 8]

/-- Why `decode` reads no operation. No step of the machine gives it so few bytes. -/
inductive DecodeError where
  /-- The group has one-byte rows and there is no byte. -/
  | noByte
  /-- A `messageId` has two bytes and fewer are there. -/
  | shortMsgId
  deriving DecidableEq, Repr

/-- The operation the first bytes are in the group, and the bytes after it. The two event rows have no
bits: the event itself selects them (R95). -/
def decode : Group → List Byte → Except DecodeError (Instr × List Byte)
  | .hunt, b :: rest => .ok (decodeHunt b, rest)
  | .inframe esc, b :: rest => .ok (decodeInframe esc b, rest)
  | .txByte, b :: rest => .ok (decodeTx b, rest)
  | .hunt, [] | .inframe _, [] | .txByte, [] => .error .noByte
  | .closeEvent, rest => .ok (.close, rest)
  | .resetEvent, rest => .ok (.reset, rest)
  | .msgId, hi :: lo :: rest => .ok (instrOfMsgOp (selectMsg (be16OfBytes hi lo)), rest)
  | .msgId, [_] | .msgId, [] => .error .shortMsgId

/-- The group and the bytes of an operation, from the same tables. EOF is a row of both INFRAME groups
(R95); its bytes are the same in both. -/
def encode : Instr → Group × List Byte
  | .skip b => (.hunt, [b])
  | .sof => (.hunt, [0x7E])
  | .data b => (.inframe false, [b])
  | .esc => (.inframe false, [0x7D])
  | .esc02 => (.inframe true, [0x02])
  | .esc01 => (.inframe true, [0x01])
  | .esc7d => (.inframe true, [0x7D])
  | .escx b => (.inframe true, [b])
  | .eof => (.inframe true, [0x7E])
  | .close => (.closeEvent, [])
  | .reset => (.resetEvent, [])
  | .enc7e => (.txByte, [0x7E])
  | .enc7d => (.txByte, [0x7D])
  | .enclit b => (.txByte, [b])
  | .termAck => (.msgId, [0x00, 0x01])
  | .heartbeat => (.msgId, [0x00, 0x02])
  | .register => (.msgId, [0x01, 0x00])
  | .auth => (.msgId, [0x01, 0x02])
  | .location => (.msgId, [0x02, 0x00])
  | .text => (.msgId, [0x03, 0x00])
  | .ctrlResp => (.msgId, [0x05, 0x00])
  | .passthru => (.msgId, [0x09, 0x00])
  | .timesync => (.msgId, [0x0F, 0x01])
  | .unrecognized id => (.msgId, bytesOfWord id)

/-- The group a table word of `nbits` bits is read in (log 9): the bits of a one-byte row do not say in
which state the byte is taken, so such a word is read as a byte taken in (`INFRAME`, `esc` 1), the group
with the most rows; a two-byte word is a `messageId`; no bits at all are the event `Close`. -/
def tableGroup (nbits : Nat) : Group :=
  if nbits = 0 then .closeEvent
  else if nbits ≤ 8 then .inframe true
  else .msgId

/-- The bytes of a table word, in the order the hardware takes them. -/
def tableBytes (nbits w : Nat) : List Byte :=
  if nbits = 0 then []
  else if nbits ≤ 8 then [BitVec.ofNat 8 w]
  else bytesOfWord (BitVec.ofNat 16 w)

/-- The operation the decoder reads from the bits `w` of a table row of `nbits` bits (log 9). -/
def decodeTableWord (nbits w : Nat) : Option Instr :=
  if nbits ≤ 16 then
    match decode (tableGroup nbits) (tableBytes nbits w) with
    | .ok (i, _) => some i
    | .error _ => none
  else none

end Sys2Proof
end

