-- ==== Sys2Proof/Machine/Ports.lean ====
section
/-! DEFINITION. What passes through the ports of `10_state.md` R35: input events and requests, and the
values put on the event port. Plain data, named after the rules' own records. -/

namespace Sys2Proof.Machine

/-- Six terminal-id bytes, as received or to be sent (`44_header.md` R222 `tid6`). -/
structure TermId where
  b0 : Byte
  b1 : Byte
  b2 : Byte
  b3 : Byte
  b4 : Byte
  b5 : Byte
  deriving DecidableEq, Repr

/-- The six bytes in payload order. -/
def TermId.bytes (t : TermId) : List Byte := [t.b0, t.b1, t.b2, t.b3, t.b4, t.b5]

/-- The header record (`44_header.md` R222). -/
structure Header where
  messageId : Word16
  bodyProperties : Word16
  /-- `bodyProperties[9:0]` -/
  bodyLen : BitVec 10
  /-- `bodyProperties[15:10]` -/
  rsvd : BitVec 6
  tid6 : TermId
  /-- Twelve characters, one byte with its ASCII code each (`40_bcd.md` R121, R122; log 15). -/
  tidStr : List Byte
  tidBcdOk : Bool
  serialNumber : Word16
  deriving DecidableEq, Repr

/-- The ten event kinds, in the order of `30_encoding.md` R94. -/
inductive EventKind where
  | registration
  | authentication
  | heartbeat
  | locationReport
  | textMessage
  | controlResponse
  | timeSyncRequest
  | dataPassThrough
  | terminalCommonResponse
  | unrecognized
  deriving DecidableEq, Repr

/-- The five discard reasons (`60_exceptions.md` R310). -/
inductive DiscardReason where
  | tooShort
  | checksum
  | flags
  | lenMismatch
  | decodeFail
  deriving DecidableEq, Repr

/-- The response classes (`45_dispatch.md` R252). -/
inductive RespClass where
  | none
  | universal
  | regAck
  | timesyncAck
  deriving DecidableEq, Repr

/-- The registration fields (`45_dispatch.md` R254). -/
structure RegFields where
  province : Word16
  city : Word16
  manufacturerId : List Byte
  terminalModel : List Byte
  regTerminalId : List Byte
  plateColor : Byte
  vin : List Byte
  deriving DecidableEq, Repr

/-- The response descriptor (`45_dispatch.md` R252). -/
structure RespDesc where
  rclass : RespClass
  respId : Word16
  tid6 : TermId
  ackSerial : Word16
  ackMsgId : Word16
  result : Byte
  deriving DecidableEq, Repr

/-- The event output (`45_dispatch.md` R251). -/
structure Event where
  kind : EventKind
  hdr : Header
  body : List Byte
  /-- Present for kind Registration, absent for every other. -/
  reg : Option RegFields
  resp : RespDesc
  deriving DecidableEq, Repr

/-- The discard output (`60_exceptions.md` R311, R312). -/
structure Discard where
  reason : DiscardReason
  n : BitVec 11
  ovf : Bool
  hdr : Option Header
  deriving DecidableEq, Repr

/-- A value on the port EVT: one per completed frame (`10_state.md` R35). -/
inductive EvtOut where
  | event (e : Event)
  | discard (d : Discard)
  deriving DecidableEq, Repr

/-- An input event at RX (`00_scope.md` R9). -/
inductive RxEvent where
  | byte (b : Byte)
  | close
  | reset
  deriving DecidableEq, Repr

/-- The input of the frame builder at TXI (`46_frame_builder.md` R291). -/
structure TxRequest where
  msgId : Word16
  tid6 : TermId
  serial : Word16
  body : List Byte
  deriving DecidableEq, Repr

/-- What one step takes (log 1). -/
inductive Input where
  /-- An event at RX, with the bit the environment holds on AUTH in that step (`45_dispatch.md` R265; log 2). -/
  | rx (ev : RxEvent) (authOk : Bool)
  /-- A byte entering the escape encoder (`41_escape_codec.md` R150). -/
  | txByte (b : Byte)
  /-- A request to the frame builder (`46_frame_builder.md` R291). -/
  | txFrame (req : TxRequest)
  deriving DecidableEq, Repr

/-- The 4-bit number of an event kind (`30_encoding.md` R94). -/
def eventKindCode : EventKind → BitVec 4
  | .registration => 0
  | .authentication => 1
  | .heartbeat => 2
  | .locationReport => 3
  | .textMessage => 4
  | .controlResponse => 5
  | .timeSyncRequest => 6
  | .dataPassThrough => 7
  | .terminalCommonResponse => 8
  | .unrecognized => 9

/-- The 3-bit number of a discard reason (R94, `60_exceptions.md` R310). -/
def discardCode : DiscardReason → BitVec 3
  | .tooShort => 1
  | .checksum => 2
  | .flags => 3
  | .lenMismatch => 4
  | .decodeFail => 5

/-- The 2-bit number of a response class (R94). -/
def respClassCode : RespClass → BitVec 2
  | .none => 0
  | .universal => 1
  | .regAck => 2
  | .timesyncAck => 3

/-- The query on the event port's side band to the authorization collaborator: header and registration
fields of the registration frame being completed (`45_dispatch.md` R265). -/
def authQuery : EvtOut → Option (Header × RegFields)
  | .event e => e.reg.map (fun r => (e.hdr, r))
  | .discard _ => Option.none

end Sys2Proof.Machine
end

