-- ==== Sys2Proof/Machine/State.lean ====
section
/-! DEFINITION. The state of one CORE instance with its ports (`10_state.md` R20, R35), how a step can
stop, and the state after reset (R32, R350). Plain data only. -/

namespace Sys2Proof.Machine

/-- No operation of the CORE faults: "a model must therefore have no stuck state and no fault outcome on
the receive path" (`60_exceptions.md` R322). The type has no constructor, so no step can answer a fault. -/
inductive Fault where
  deriving DecidableEq, Repr

/-- How an input or a call is given no meaning. -/
inductive Refusal where
  /-- Raised by an arm of `exec` whose operation has no meaning yet; no arm is so. Safe. -/
  | notModelled (mnemonic : String)
  /-- Raised by a step that takes a frame-builder request whose body is longer than 1023 bytes
  (`46_frame_builder.md` R293). Safe: no bytes are produced. -/
  | bodyTooLong
  /-- Raised by the function `decodeBCD` outside the bytes it is given (`40_bcd.md` R124). No step. Safe. -/
  | bcdOutOfRange
  /-- Raised by the function `encodeBCD` on a character outside 0 to 9 (`40_bcd.md` R125). No step. Safe. -/
  | notDecimalDigit
  /-- Raised by a step of a block for a channel number that names no unit of it
  (`60_exceptions.md` R331; log 7). Safe. -/
  | noSuchChannel
  deriving DecidableEq, Repr

/-- The payload buffer `PB` (`20_memory.md` R50): written bytes by address, addresses rising. An address
that is not listed holds no known value (log 4). -/
abbrev Memory := List Host.Cell

/-- One CORE instance and its ports. -/
structure State where
  /-- Control register `fsm`, 1 bit (R20, R21). -/
  fsm : Fsm
  /-- Flag `esc`, 1 bit (R20, R22). -/
  esc : Bool
  /-- Counter `len`, 11 bits, saturating at 2047 (R20, R23). -/
  len : BitVec 11
  /-- Accumulator `xacc`, 8 bits (R20, R24). -/
  xacc : Byte
  /-- Payload buffer `PB[0..1035]` (R20, R25, R50). -/
  pb : Memory
  /-- Ports RX and TXI: the inputs not taken yet, oldest first (R35; log 1). -/
  inputs : List Input
  /-- Port AUTH: the bit standing there in the step being made (R35, R265; log 2). -/
  authOk : Bool
  /-- Port EVT: the values put there so far, oldest first (R35; log 3). -/
  evt : List EvtOut
  /-- Port TXO of the frame builder: the byte sequences put there so far, one a built frame, oldest first
  (R35; log 3). -/
  txo : List (List Byte)
  /-- What the escape encoder has given for the bytes fed to it on their own, oldest first. The spec names no
  port for it: the model's own (log 18). -/
  enc : List Byte
  /-- The parameters of R5 a model takes as arguments; no step writes them (R351; log 6). -/
  cfg : Config.Params
  deriving DecidableEq, Repr

/-- The state after reset (R32, R350): `HUNT`, `esc` 0, `len` 0, `xacc` 0x00, `PB` unspecified (nothing
listed). The ports and the encoder's output are empty and AUTH is 0 (logs 1, 2, 3, 18); `STRICT_FLAGS` is true (R5) and
`LOC_MIN_BODY` 0 (log 6). -/
def State.reset : State where
  fsm := .hunt
  esc := false
  len := 0
  xacc := 0x00
  pb := []
  inputs := []
  authOk := false
  evt := []
  txo := []
  enc := []
  cfg := { strictFlags := true, locMinBody := 0 }

end Sys2Proof.Machine
end

