-- ==== Sys2Proof/Machine/Ops.lean ====
section
/-! DEFINITION. The named operations on the payload buffer, the payload state and the ports. The CORE's
exceptions are the discards (`60_exceptions.md` R310 to R312): `raiseDiscard` makes one, and
`State.finishFrame` is the one place where the outcome of a completed frame, event or discard, is put
out. There is no return from an exception (R318). -/

namespace Sys2Proof.Machine

/-- The byte written at address `a`, if one has been. -/
def Memory.byteAt? : Memory → Nat → Option Byte
  | [], _ => none
  | (k, v) :: rest, a => if k = a then some v else Memory.byteAt? rest a

/-- Write one byte, keeping addresses rising. -/
def Memory.put : Memory → Nat → Byte → Memory
  | [], a, b => [(a, b)]
  | (k, v) :: rest, a, b =>
    if a < k then (a, b) :: (k, v) :: rest
    else if a = k then (a, b) :: rest
    else (k, v) :: Memory.put rest a b

/-- Addresses rise strictly, start at `lo` or above, and lie in `PB` (`20_memory.md` R50). -/
def Memory.wfFrom : Nat → Memory → Bool
  | _, [] => true
  | lo, (k, _) :: rest => decide (lo ≤ k) && decide (k < Config.pbSize) && Memory.wfFrom (k + 1) rest

/-- The canonical form of the payload buffer: addresses strictly rising, all below 1036. What an address
not listed holds is unknown, so no entry can equal it (log 4). -/
def Memory.wf (m : Memory) : Bool := Memory.wfFrom 0 m

/-- `PB[a]` (`00_scope.md` R8): the byte written there; where nothing has been written, the free value of
that address (log 4). -/
def readPb (m : Memory) (a : Nat) : Byte := (m.byteAt? a).getD (Config.pbUnwritten a)

/-- `MemRead(a, n)`: `n` bytes as one number, big-endian (`00_scope.md` R8, `20_memory.md` R55). `rd` reads
one byte. -/
def memRead (rd : Nat → Byte) (a n : Nat) : Nat :=
  (List.range n).foldl (fun acc i => acc * 256 + (rd (a + i)).toNat) 0

/-- The `n` bytes at `a`, `a + 1`, …, in that order (`00_scope.md` R7). -/
def bytesAt (rd : Nat → Byte) (a n : Nat) : List Byte := (List.range n).map (fun i => rd (a + i))

/-- `XOR(s)`: exclusive-or of all bytes, `XOR([]) = 0x00` (`00_scope.md` R8). -/
def xorBytes (s : List Byte) : Byte := s.foldl (· ^^^ ·) 0x00

/-- The counter `len` after one push: one more, staying at 2047 (`10_state.md` R23, R30). -/
def lenNext (n : BitVec 11) : BitVec 11 := if n = Config.lenMax then Config.lenMax else n + 1

/-- `push(v)` (`10_state.md` R30): the three writes use the value of `len` before the push. -/
def State.push (s : State) (v : Byte) : State :=
  { s with
    pb := if s.len.toNat < Config.pbSize then s.pb.put s.len.toNat v else s.pb
    xacc := s.xacc ^^^ v
    len := lenNext s.len }

/-- Pushes in the order of the list, each seeing the state the one before left (R30). -/
def State.pushAll (s : State) (vs : List Byte) : State := vs.foldl State.push s

/-- Put one value on EVT (`10_state.md` R35; log 3). -/
def State.emit (s : State) (o : EvtOut) : State := { s with evt := s.evt ++ [o] }

/-- Put one byte sequence on TXO (`10_state.md` R35; log 3). -/
def State.transmit (s : State) (frame : List Byte) : State := { s with txo := s.txo ++ [frame] }

/-- Put out what the escape encoder gives for a byte fed to it on its own (`41_escape_codec.md` R150). Where
that output goes is the model's choice: a list of its own, not TXO (log 18). -/
def State.putEncoded (s : State) (bs : List Byte) : State := { s with enc := s.enc ++ bs }

/-- `ovf`: the payload did not fit `PB` (`10_state.md` R28, `60_exceptions.md` R312). -/
def ovf (n : BitVec 11) : Bool := decide (Config.pbSize < n.toNat)

/-- `raise Discard(reason, …)`: the output that takes the place of an event (`60_exceptions.md` R311).
It records the reason, `n`, whether the payload outgrew `PB`, and the header when it was parsed (R312). -/
def raiseDiscard (reason : DiscardReason) (n : BitVec 11) (hdr : Option Header) : EvtOut :=
  .discard { reason := reason, n := n, ovf := ovf n, hdr := hdr }

/-- The end of every EOF, event and discard alike: `fsm <- HUNT`, one value on EVT, nothing saved
(`42_framer.md` R175, `60_exceptions.md` R317). -/
def State.finishFrame (s : State) (o : EvtOut) : State := { s.emit o with fsm := .hunt }

/-- The state CLOSE and RESET leave (`42_framer.md` R183, R184), which is that of `10_state.md` R32: `PB` is
unspecified, so nothing stays listed and every byte of it reads as a free value (log 5). -/
def State.toHunt (s : State) : State :=
  { s with fsm := .hunt, esc := false, len := 0, xacc := 0x00, pb := [] }

end Sys2Proof.Machine
end

