-- ==== Sys2Proof/Machine/EscapeCodec.lean ====
section
/-! DEFINITION. The escape codec of `41_escape_codec.md`: the five byte operations of the decoder (R141 to
R145; EOF with a pending marker, R146, stands in `Machine/Framer.lean`), the three of the encoder (R151 to
R153), and the two functions over whole sequences (R140, R154). -/

namespace Sys2Proof.Machine

/-- ESC (R141): `esc <- 1`, nothing pushed. -/
def execEsc (s : State) : Host.Outcome State Fault Refusal :=
  .next { s with esc := true }

/-- ESC02 (R142): `push(0x7E); esc <- 0`. -/
def execEsc02 (s : State) : Host.Outcome State Fault Refusal :=
  .next { s.push 0x7E with esc := false }

/-- ESC01 (R143): `push(0x7D); esc <- 0`. -/
def execEsc01 (s : State) : Host.Outcome State Fault Refusal :=
  .next { s.push 0x7D with esc := false }

/-- ESC7D (R144): `push(0x7D)`; `esc` keeps its value, the new marker is the pending one. -/
def execEsc7d (s : State) : Host.Outcome State Fault Refusal :=
  .next (s.push 0x7D)

/-- ESCX (R145): `push(0x7D) then push(b); esc <- 0`. -/
def execEscx (b : Byte) (s : State) : Host.Outcome State Fault Refusal :=
  .next { (s.push 0x7D).push b with esc := false }

/-- What the encoder gives for one byte (R151, R152, R153). -/
def encByte (b : Byte) : List Byte :=
  if b = Config.delim then [Config.escMark, Config.escDelim]
  else if b = Config.escMark then [Config.escMark, Config.escSelf]
  else [b]

/-- ENC7E (R151): the two bytes 0x7D, 0x02, on the model's own output `enc` (log 18). -/
def execEnc7e (s : State) : Host.Outcome State Fault Refusal :=
  .next (s.putEncoded [0x7D, 0x02])

/-- ENC7D (R152): the two bytes 0x7D, 0x01, on `enc` (log 18). -/
def execEnc7d (s : State) : Host.Outcome State Fault Refusal :=
  .next (s.putEncoded [0x7D, 0x01])

/-- ENCLIT (R153): the byte itself, on `enc` (log 18). -/
def execEnclit (b : Byte) (s : State) : Host.Outcome State Fault Refusal :=
  .next (s.putEncoded [b])

/-- `Escape(X)` (R154). -/
def escape (x : List Byte) : List Byte := x.flatMap encByte

/-- `Unescape(C)` (R140): a marker that opens no escape is copied alone, and the byte after it is examined
afresh. -/
def unescape : List Byte → List Byte
  | [] => []
  | [c] => [c]
  | c :: d :: rest =>
    if c = Config.escMark ∧ d = Config.escDelim then Config.delim :: unescape rest
    else if c = Config.escMark ∧ d = Config.escSelf then Config.escMark :: unescape rest
    else c :: unescape (d :: rest)

end Sys2Proof.Machine
end

