-- ==== Sys2Proof/Machine/FrameBuilder.lean ====
section
/-! DEFINITION. The frame builder of `46_frame_builder.md` (R290 to R293), a stateless unit, and the
notation `FRAME` of `30_encoding.md` R98. -/

namespace Sys2Proof.Machine

/-- Header and body before the checksum: `c` of R98, and of R292 with `props = |body|`. -/
def frameContent (msgId props : Word16) (tid : TermId) (serial : Word16) (body : List Byte) : List Byte :=
  bytesOfWord msgId ++ bytesOfWord props ++ tid.bytes ++ bytesOfWord serial ++ body

/-- The payload: `c ++ [XOR(c)]` (R98, R292). -/
def framePayload (msgId props : Word16) (tid : TermId) (serial : Word16) (body : List Byte) : List Byte :=
  let c := frameContent msgId props tid serial body
  c ++ [xorBytes c]

/-- `FRAME(msgId, props, tid, serial, body)` (`30_encoding.md` R98). -/
def frameBytes (msgId props : Word16) (tid : TermId) (serial : Word16) (body : List Byte) : List Byte :=
  [Config.delim] ++ escape (framePayload msgId props tid serial body) ++ [Config.delim]

/-- `BuildFrame(msgId, tid6, serial, body)` (R292); a body longer than 1023 bytes is refused (R293). -/
def buildFrame (r : TxRequest) : Except Refusal (List Byte) :=
  if r.body.length ≤ Config.bodyMax then
    .ok (frameBytes r.msgId (BitVec.ofNat 16 r.body.length) r.tid6 r.serial r.body)
  else .error .bodyTooLong

/-- A request taken at TXI: the frame as one byte sequence on TXO, or the refusal of R293 (logs 13, 14). -/
def execTxFrame (r : TxRequest) (s : State) : Host.Outcome State Fault Refusal :=
  match buildFrame r with
  | .ok bytes => .next (s.transmit bytes)
  | .error e => .refused e

end Sys2Proof.Machine
end

