-- ==== Sys2Proof/Machine/Bcd.lean ====
section
/-! DEFINITION. The BCD decoder of `40_bcd.md` (R120 to R124) and the reference encoder (R125), which the
CORE does not contain. A digit string is a list of ASCII codes (R121; log 15). -/

namespace Sys2Proof.Machine

/-- `b[7:4]`, the earlier digit of a BCD byte (`20_memory.md` R56). -/
def hiNibble (b : Byte) : Nibble := b.extractLsb' 4 4

/-- `b[3:0]`, the later digit of a BCD byte (R56). -/
def loNibble (b : Byte) : Nibble := b.extractLsb' 0 4

/-- `hexchar(d)`: 0x30 to 0x39 for 0 to 9, 0x41 to 0x46 for 10 to 15 (`40_bcd.md` R121). -/
def hexchar (d : Nibble) : Byte :=
  if d ≤ 9 then 0x30 + d.setWidth 8 else 0x37 + d.setWidth 8

/-- The two characters of one byte, high nibble first (R120). -/
def bcdChars (b : Byte) : List Byte := [hexchar (hiNibble b), hexchar (loNibble b)]

/-- The characters of a BCD field (R120). -/
def bcdString (bs : List Byte) : List Byte := bs.flatMap bcdChars

/-- `decodeBCD(bytes, offset, length)` (R120). A call outside the bytes is a refusal, not a value (R124). -/
def decodeBCD (bytes : List Byte) (offset length : Nat) : Except Refusal (List Byte) :=
  if offset + length ≤ bytes.length then .ok (bcdString ((bytes.drop offset).take length))
  else .error .bcdOutOfRange

/-- Both nibbles of the byte are decimal digits (R123). -/
def nibblesDecimal (b : Byte) : Bool := decide (hiNibble b ≤ 9) && decide (loNibble b ≤ 9)

/-- The character is `0` to `9` (R125). -/
def isDigit (c : Byte) : Bool := decide (0x30 ≤ c) && decide (c ≤ 0x39)

/-- The first line of `encodeBCD`: a leading zero when the length is odd (R125). -/
def padEven (s : List Byte) : List Byte := if s.length % 2 = 1 then 0x30 :: s else s

/-- `rightAligned(s, k)`: the first three lines of `encodeBCD`, exactly `2 * k` characters (R125). -/
def rightAligned (s : List Byte) (k : Nat) : List Byte :=
  let t := padEven s
  if 2 * k < t.length then t.drop (t.length - 2 * k)
  else List.replicate (2 * k - t.length) 0x30 ++ t

/-- Two digit characters a byte, `digit(s[2i]) * 16 + digit(s[2i + 1])` (R125). -/
def packDigits : List Byte → List Byte
  | hi :: lo :: rest => ((hi - 0x30) * 16 + (lo - 0x30)) :: packDigits rest
  | [_] | [] => []

/-- `encodeBCD(s, k)` (R125): a reference function outside the CORE. A string with a character outside 0 to
9 is a refusal. -/
def encodeBCD (s : List Byte) (k : Nat) : Except Refusal (List Byte) :=
  if s.all isDigit then .ok (packDigits (rightAligned s k)) else .error .notDecimalDigit

end Sys2Proof.Machine
end

