-- ==== Sys2Proof/Machine/Flags.lean ====
section
/-! DEFINITION. The four conditions of `10_state.md` R28 that are computed when a frame completes and are
not stored; `ovf` stands in `Machine/Ops.lean`, where the discard record is made. (`esc` is the only stored flag, R22: `Machine/EscapeCodec.lean`, `Machine/Framer.lean`.) -/

namespace Sys2Proof.Machine

/-- `cs_ok` (`43_checksum.md` R201). -/
def csOk (xacc : Byte) : Bool := xacc == 0x00

/-- `flags_zero` (`44_header.md` R225). -/
def flagsZero (bodyProperties : Word16) : Bool := bodyProperties.extractLsb' 10 6 == 0

/-- `tid_bcd_ok`: every nibble of the six terminal-id bytes is at most 9 (`40_bcd.md` R123). -/
def tidBcdOk (t : TermId) : Bool := t.bytes.all nibblesDecimal

end Sys2Proof.Machine
end

