-- ==== Sys2Proof/Machine/Operands.lean ====
section
/-! DEFINITION. The operands of the completion checks and of the dispatch operations: the header record
(`44_header.md` R221, R222), the body (R227) and, for REGISTER, the bit `auth_ok` (`45_dispatch.md`). `rd`
reads one payload byte. -/

namespace Sys2Proof.Machine

/-- `PB[4..9]` (`30_encoding.md` R86). -/
def termIdAt (rd : Nat → Byte) : TermId :=
  { b0 := rd 4, b1 := rd 5, b2 := rd 6, b3 := rd 7, b4 := rd 8, b5 := rd 9 }

/-- `ParseHeader(PB)` (`44_header.md` R221). Every bit pattern parses. -/
def parseHeader (rd : Nat → Byte) : Header :=
  let props := BitVec.ofNat 16 (memRead rd 2 2)
  let tid := termIdAt rd
  { messageId := BitVec.ofNat 16 (memRead rd 0 2)
    bodyProperties := props
    bodyLen := props.extractLsb' 0 10
    rsvd := props.extractLsb' 10 6
    tid6 := tid
    tidStr := bcdString tid.bytes
    tidBcdOk := tidBcdOk tid
    serialNumber := BitVec.ofNat 16 (memRead rd 10 2) }

/-- The operands of a dispatch operation (`45_dispatch.md` R250), with `n` for a discard record (R312). -/
structure Frame where
  n : BitVec 11
  hdr : Header
  /-- The body; its length is `blen` (R250). -/
  body : List Byte
  authOk : Bool
  deriving DecidableEq, Repr

/-- The operands a dispatch operation finds in the unit: the header in `PB`, the body
`PB[12 .. 12 + blen - 1]` with `blen = hdr.bodyLen` (`44_header.md` R227), the AUTH bit (log 10). -/
def State.frame (s : State) : Frame :=
  let hdr := parseHeader (readPb s.pb)
  { n := s.len
    hdr := hdr
    body := bytesAt (readPb s.pb) Config.hdrLen hdr.bodyLen.toNat
    authOk := s.authOk }

/-- `BE16(s, i)` (`00_scope.md` R8), used with `i + 1 < |s|`. -/
def be16 (s : List Byte) (i : Nat) : Word16 := BitVec.ofNat 16 (memRead (fun j => s.getD j 0) i 2)

/-- `s[i..j]` (`00_scope.md` R7): empty when `j < i`. -/
def slice (s : List Byte) (i j : Nat) : List Byte := (s.drop i).take (j + 1 - i)

end Sys2Proof.Machine
end

