-- ==== Sys2Proof/Machine/Dispatcher.lean ====
section
/-! DEFINITION. The message dispatcher of `45_dispatch.md`: the ten dispatch operations as functions from
their operands to the value put on EVT, `Dispatch` (R250), and their meanings. No operation writes any
register or flag. -/

namespace Sys2Proof.Machine

/-- `Universal(hdr, r)` (R253). -/
def universal (hdr : Header) (r : Byte) : RespDesc :=
  { rclass := .universal, respId := 0x8001, tid6 := hdr.tid6, ackSerial := hdr.serialNumber,
    ackMsgId := hdr.messageId, result := r }

/-- The minimum-body check of R258: a shorter body is `Discard(DECODE_FAIL)` with the header. -/
def withMinBody (minBody : Nat) (f : Frame) (e : Event) : EvtOut :=
  if f.body.length < minBody then raiseDiscard .decodeFail f.n (some f.hdr) else .event e

/-- The event of a kind without registration fields (R251). -/
def plainEvent (kind : EventKind) (f : Frame) (resp : RespDesc) : Event :=
  { kind := kind, hdr := f.hdr, body := f.body, reg := none, resp := resp }

/-- TERM_ACK (R259): no response; the other fields of the descriptor as the rule lists them. -/
def termAckOut (f : Frame) : EvtOut :=
  withMinBody 0 f (plainEvent .terminalCommonResponse f
    { rclass := .none, respId := 0x0000, tid6 := f.hdr.tid6, ackSerial := f.hdr.serialNumber,
      ackMsgId := f.hdr.messageId, result := 0x00 })

/-- HEARTBEAT (R256). -/
def heartbeatOut (f : Frame) : EvtOut :=
  withMinBody 0 f (plainEvent .heartbeat f (universal f.hdr 0x00))

/-- The registration fields of R254, sliced from a body of at least 37 bytes. -/
def regFields (body : List Byte) : RegFields :=
  { province := be16 body 0
    city := be16 body 2
    manufacturerId := slice body 4 8
    terminalModel := slice body 9 28
    regTerminalId := slice body 29 35
    plateColor := body.getD 36 0
    vin := body.drop 37 }

/-- REGISTER (R254): the only operation that reads `auth_ok`; 0 is denied, failed and unavailable alike. -/
def registerOut (f : Frame) : EvtOut :=
  withMinBody Config.regMinBody f
    { kind := .registration, hdr := f.hdr, body := f.body, reg := some (regFields f.body),
      resp :=
        { rclass := .regAck, respId := 0x8100, tid6 := f.hdr.tid6, ackSerial := f.hdr.serialNumber,
          ackMsgId := f.hdr.messageId, result := if f.authOk then 0x00 else 0x01 } }

/-- AUTH (R255): the auth code is the whole body, compared with nothing. -/
def authOut (f : Frame) : EvtOut :=
  withMinBody 0 f (plainEvent .authentication f (universal f.hdr 0x00))

/-- LOCATION (R257): the body goes on as bytes; the least length is the parameter `LOC_MIN_BODY`. -/
def locationOut (cfg : Config.Params) (f : Frame) : EvtOut :=
  withMinBody cfg.locMinBody.val f (plainEvent .locationReport f (universal f.hdr 0x00))

/-- TEXT (R260). -/
def textOut (f : Frame) : EvtOut :=
  withMinBody 0 f (plainEvent .textMessage f (universal f.hdr 0x00))

/-- CTRL_RESP (R261). -/
def ctrlRespOut (f : Frame) : EvtOut :=
  withMinBody 0 f (plainEvent .controlResponse f (universal f.hdr 0x00))

/-- PASSTHRU (R263): the type byte must be there; neither it nor what follows is interpreted. -/
def passthruOut (f : Frame) : EvtOut :=
  withMinBody Config.passMinBody f (plainEvent .dataPassThrough f (universal f.hdr 0x00))

/-- TIMESYNC (R262). -/
def timesyncOut (f : Frame) : EvtOut :=
  withMinBody 0 f (plainEvent .timeSyncRequest f
    { rclass := .timesyncAck, respId := 0x8F01, tid6 := f.hdr.tid6, ackSerial := f.hdr.serialNumber,
      ackMsgId := f.hdr.messageId, result := 0x01 })

/-- UNRECOGNIZED (R264): result 3, unsupported. -/
def unrecognizedOut (f : Frame) : EvtOut :=
  withMinBody 0 f (plainEvent .unrecognized f (universal f.hdr 0x03))

/-- `Dispatch(hdr, body, auth_ok)` for the selected operation (R250). -/
def dispatchOut (cfg : Config.Params) (op : MsgOp) (f : Frame) : EvtOut :=
  match op with
  | .termAck => termAckOut f
  | .heartbeat => heartbeatOut f
  | .register => registerOut f
  | .auth => authOut f
  | .location => locationOut cfg f
  | .text => textOut f
  | .ctrlResp => ctrlRespOut f
  | .passthru => passthruOut f
  | .timesync => timesyncOut f
  | .unrecognized _ => unrecognizedOut f

/-- `MinBody(op)` (R258). -/
def minBody (cfg : Config.Params) : MsgOp → Nat
  | .register => Config.regMinBody
  | .passthru => Config.passMinBody
  | .location => cfg.locMinBody.val
  | .termAck | .heartbeat | .auth | .text | .ctrlResp | .timesync | .unrecognized _ => 0

/-- Meaning of TERM_ACK on the frame the unit holds (log 10). -/
def execTermAck (s : State) : Host.Outcome State Fault Refusal := .next (s.emit (termAckOut s.frame))

/-- Meaning of HEARTBEAT on the frame the unit holds (log 10). -/
def execHeartbeat (s : State) : Host.Outcome State Fault Refusal := .next (s.emit (heartbeatOut s.frame))

/-- Meaning of REGISTER on the frame the unit holds (log 10). -/
def execRegister (s : State) : Host.Outcome State Fault Refusal := .next (s.emit (registerOut s.frame))

/-- Meaning of AUTH on the frame the unit holds (log 10). -/
def execAuth (s : State) : Host.Outcome State Fault Refusal := .next (s.emit (authOut s.frame))

/-- Meaning of LOCATION on the frame the unit holds (log 10). -/
def execLocation (s : State) : Host.Outcome State Fault Refusal := .next (s.emit (locationOut s.cfg s.frame))

/-- Meaning of TEXT on the frame the unit holds (log 10). -/
def execText (s : State) : Host.Outcome State Fault Refusal := .next (s.emit (textOut s.frame))

/-- Meaning of CTRL_RESP on the frame the unit holds (log 10). -/
def execCtrlResp (s : State) : Host.Outcome State Fault Refusal := .next (s.emit (ctrlRespOut s.frame))

/-- Meaning of PASSTHRU on the frame the unit holds (log 10). -/
def execPassthru (s : State) : Host.Outcome State Fault Refusal := .next (s.emit (passthruOut s.frame))

/-- Meaning of TIMESYNC on the frame the unit holds (log 10). -/
def execTimesync (s : State) : Host.Outcome State Fault Refusal := .next (s.emit (timesyncOut s.frame))

/-- Meaning of UNRECOGNIZED on the frame the unit holds (log 10). -/
def execUnrecognized (s : State) : Host.Outcome State Fault Refusal :=
  .next (s.emit (unrecognizedOut s.frame))

end Sys2Proof.Machine
end

