-- ==== Sys2Proof/Machine/Framer.lean ====
section
/-! DEFINITION. The framer of `42_framer.md`: its byte and event operations (R172 to R175, R183, R184) and
the frame-completion function `Complete` (R176) with the checks of `43_checksum.md` and `44_header.md`. -/

namespace Sys2Proof.Machine

/-- SKIP (R172): the byte is dropped. -/
def execSkip (s : State) : Host.Outcome State Fault Refusal := .next s

/-- SOF (R173): `PB` is not cleared and the delimiter is not pushed. -/
def execSof (s : State) : Host.Outcome State Fault Refusal :=
  .next { s with fsm := .inframe, esc := false, len := 0, xacc := 0x00 }

/-- DATA (R174): `push(b)`. -/
def execData (b : Byte) (s : State) : Host.Outcome State Fault Refusal := .next (s.push b)

/-- `Complete(PB, n, xacc, auth_ok)` (R176): the checks in the order of `60_exceptions.md` R315, the first
that fails raised; then the dispatch operation that `messageId` selects. -/
def complete (cfg : Config.Params) (rd : Nat → Byte) (n : BitVec 11) (xacc : Byte) (authOk : Bool) :
    EvtOut :=
  if n = 0 then raiseDiscard .tooShort n none
  else if !csOk xacc then raiseDiscard .checksum n none
  else if n.toNat - 1 < Config.hdrLen then raiseDiscard .tooShort n none
  else
    let hdr := parseHeader rd
    let blen := n.toNat - 13
    if cfg.strictFlags && !flagsZero hdr.bodyProperties then raiseDiscard .flags n (some hdr)
    else if hdr.bodyLen.toNat ≠ blen then raiseDiscard .lenMismatch n (some hdr)
    else
      dispatchOut cfg (selectMsg hdr.messageId)
        { n := n, hdr := hdr, body := bytesAt rd Config.hdrLen blen, authOk := authOk }

/-- The pending marker at the end delimiter (`41_escape_codec.md` R146): with `esc` 1, `push(0x7D)` and
`esc <- 0`. -/
def State.flushEsc (s : State) : State := if s.esc then { s.push 0x7D with esc := false } else s

/-- The value a completed frame puts on EVT, for the frame the unit holds (R175, R176). -/
def State.verdict (s : State) : EvtOut := complete s.cfg (readPb s.pb) s.len s.xacc s.authOk

/-- EOF (R175). -/
def execEof (s : State) : Host.Outcome State Fault Refusal :=
  .next (s.flushEsc.finishFrame s.flushEsc.verdict)

/-- CLOSE (R183): no output; a frame in progress is dropped. -/
def execClose (s : State) : Host.Outcome State Fault Refusal := .next s.toHunt

/-- RESET (R184): as CLOSE. -/
def execReset (s : State) : Host.Outcome State Fault Refusal := .next s.toHunt

end Sys2Proof.Machine
end

