-- ==== Sys2Proof/Machine/Dispatch.lean ====
section
/-! DEFINITION. One arm per operation: the meaning of each, in `Machine/Framer.lean`,
`Machine/EscapeCodec.lean` and `Machine/Dispatcher.lean`. -/

namespace Sys2Proof.Machine

def exec (i : Instr) (s : State) : Host.Outcome State Fault Refusal :=
  match i with
  | .skip _ => Sys2Proof.Machine.execSkip s
  | .sof => Sys2Proof.Machine.execSof s
  | .data b => Sys2Proof.Machine.execData b s
  | .esc => Sys2Proof.Machine.execEsc s
  | .esc02 => Sys2Proof.Machine.execEsc02 s
  | .esc01 => Sys2Proof.Machine.execEsc01 s
  | .esc7d => Sys2Proof.Machine.execEsc7d s
  | .escx b => Sys2Proof.Machine.execEscx b s
  | .eof => Sys2Proof.Machine.execEof s
  | .close => Sys2Proof.Machine.execClose s
  | .reset => Sys2Proof.Machine.execReset s
  | .enc7e => Sys2Proof.Machine.execEnc7e s
  | .enc7d => Sys2Proof.Machine.execEnc7d s
  | .enclit b => Sys2Proof.Machine.execEnclit b s
  | .termAck => Sys2Proof.Machine.execTermAck s
  | .heartbeat => Sys2Proof.Machine.execHeartbeat s
  | .register => Sys2Proof.Machine.execRegister s
  | .auth => Sys2Proof.Machine.execAuth s
  | .location => Sys2Proof.Machine.execLocation s
  | .text => Sys2Proof.Machine.execText s
  | .ctrlResp => Sys2Proof.Machine.execCtrlResp s
  | .passthru => Sys2Proof.Machine.execPassthru s
  | .timesync => Sys2Proof.Machine.execTimesync s
  | .unrecognized _ => Sys2Proof.Machine.execUnrecognized s

end Sys2Proof.Machine
end

