-- ==== Sys2Proof/Machine/Step.lean ====
section
/-! DEFINITION. One step: the next input event is taken and its operation performed (`00_scope.md` R9). -/

namespace Sys2Proof.Machine

/-- The operation an event at RX performs in a state (`30_encoding.md` R95). -/
def State.rxInstr (s : State) : RxEvent → Instr
  | .byte b => decodeRx s.fsm s.esc b
  | .close => .close
  | .reset => .reset

/-- Take the oldest input: it leaves `inputs`, and an event at RX brings the AUTH bit of the step (logs 1,
2). With no input the unit holds its state (`60_exceptions.md` R335; log 12). -/
def step (s : State) : Host.Outcome State Fault Refusal :=
  match s.inputs with
  | [] => .next s
  | .rx ev a :: rest => exec (s.rxInstr ev) { s with inputs := rest, authOk := a }
  | .txByte b :: rest => exec (decodeTx b) { s with inputs := rest }
  | .txFrame r :: rest => execTxFrame r { s with inputs := rest }

/-- Put an input in front of the others. -/
def State.withInput (s : State) (i : Input) : State := { s with inputs := i :: s.inputs }

/-- The unit about to take the end delimiter of a frame with the given `messageId`, a body of zeros of the
least length the operation accepts, and all other header fields zero or as they must be to pass the checks
of `Complete`. -/
def State.withHeldFrame (s : State) (id : Word16) : State :=
  let blen := minBody s.cfg (selectMsg id)
  let zeros : TermId := { b0 := 0, b1 := 0, b2 := 0, b3 := 0, b4 := 0, b5 := 0 }
  let payload := framePayload id (BitVec.ofNat 16 blen) zeros 0 (List.replicate blen 0x00)
  { s with fsm := .inframe, esc := false, len := 0, xacc := 0x00 }.pushAll payload

/-- `s` with the table word `w` of `nbits` bits stored where the next step takes it (logs 9, 11). A byte row
is a byte at RX, taken in the state its group names; a `messageId` is the first two payload bytes of a frame
that passes the checks and whose end delimiter comes next; no bits are the event `Close`. -/
def State.withFetchWord (s : State) (nbits w : Nat) : State :=
  match tableGroup nbits, tableBytes nbits w with
  | .inframe esc, b :: _ => { s with fsm := .inframe, esc := esc }.withInput (.rx (.byte b) s.authOk)
  | .hunt, b :: _ => { s with fsm := .hunt, esc := false }.withInput (.rx (.byte b) s.authOk)
  | .txByte, b :: _ => s.withInput (.txByte b)
  | .msgId, hi :: lo :: _ =>
    (s.withHeldFrame (be16OfBytes hi lo)).withInput (.rx (.byte Config.delim) s.authOk)
  | .closeEvent, _ => s.withInput (.rx .close s.authOk)
  | .resetEvent, _ => s.withInput (.rx .reset s.authOk)
  | .inframe _, [] | .hunt, [] | .txByte, [] | .msgId, [] | .msgId, [_] => s

end Sys2Proof.Machine
end

