-- ==== Sys2Proof/Machine/Channels.lean ====
section
/-! DEFINITION. `N_CHANNELS` CORE instances beside one another (`60_exceptions.md` R331): each has its own
state and ports, and a step of one is a step of that one alone. A block has at least one instance by
construction, as `00_scope.md` R5 asks of `N_CHANNELS` (log 7). -/

namespace Sys2Proof.Machine

/-- The instances of a block, each with its own ports (R331): instance 0, and the others in order. -/
structure Block where
  first : State
  others : List State
  deriving DecidableEq, Repr

/-- All instances, by their number. -/
def Block.chans (blk : Block) : List State := blk.first :: blk.others

/-- `N_CHANNELS` of the block, at least 1 (`00_scope.md` R5). -/
def Block.nChannels (blk : Block) : Config.NChannels := ⟨blk.chans.length, Nat.succ_pos _⟩

/-- `N_CHANNELS` instances, each in the reset state (R331: they start independently in the reset state). -/
def Block.reset (n : Config.NChannels) : Block :=
  { first := State.reset, others := List.replicate n.natPred State.reset }

/-- The block with another state of instance `k`. -/
def Block.setChan (blk : Block) (k : Nat) (s : State) : Block :=
  match k with
  | 0 => { blk with first := s }
  | j + 1 => { blk with others := blk.others.set j s }

/-- Instance `k` takes its step. A number that names no instance is refused: the environment has no such
move (`70_reset_and_hazards.md` R365). -/
def Block.step (blk : Block) (k : Nat) : Host.Outcome Block Fault Refusal :=
  match blk.chans[k]? with
  | none => .refused .noSuchChannel
  | some s =>
    match Sys2Proof.Machine.step s with
    | .next s' => .next (blk.setChan k s')
    | .fault f => .fault f
    | .refused r => .refused r

/-- Steps of the instances named by `sched`, in that order: any interleaving (`20_memory.md` R61). -/
def Block.run (blk : Block) : List Nat → Host.Outcome Block Fault Refusal
  | [] => .next blk
  | k :: sched =>
    match blk.step k with
    | .next blk' => blk'.run sched
    | .fault f => .fault f
    | .refused r => .refused r

end Sys2Proof.Machine
end

