-- ==== Sys2Proof/Machine/Reference.lean ====
section
/-! DEFINITION. The source software's view of the receive path, against which the rules compare the hardware:
`Split` on an unbounded buffer (`42_framer.md` R170) and the checks of `Complete` on a whole payload that no
buffer bounds (`43_checksum.md` R201, `44_header.md` R226, R228). No step of the machine uses it. -/

namespace Sys2Proof.Machine

/-- `Split` (R170) with its loop bounded by `fuel`; `key` gives the byte of a stream element. It answers the
RawFrames, both delimiters included, and what is left in the buffer. -/
def splitFuel {α : Type} (key : α → Byte) : Nat → List α → List (List α) × List α
  | 0, buf => ([], buf)
  | fuel + 1, buf =>
    match buf.dropWhile (fun x => key x != Config.delim) with
    | [] => ([], buf)
    | d :: tail =>
      match tail.dropWhile (fun x => key x != Config.delim) with
      | [] => ([], buf)
      | e :: rest =>
        let next := splitFuel key fuel rest
        ((d :: (tail.takeWhile (fun x => key x != Config.delim) ++ [e])) :: next.1, next.2)

/-- `Split(S)` (R170): every turn of the loop takes at least two elements, so the length bounds it. -/
def split {α : Type} (key : α → Byte) (stream : List α) : List (List α) × List α :=
  splitFuel key stream.length stream

/-- The content of a RawFrame: what stands between its two delimiters (`00_scope.md` glossary). -/
def frameInside {α : Type} (frame : List α) : List α := frame.tail.dropLast

/-- The verdict on a payload `u` of any length: its last byte against the exclusive-or of the bytes before
it (R201), the minimum length (R203), the reserved bits (R225), the length field against the bytes between
header and checksum (R226), then dispatch. The reported `n` saturates (`60_exceptions.md` R312). -/
def completePayload (cfg : Config.Params) (u : List Byte) (authOk : Bool) : EvtOut :=
  let n : BitVec 11 := BitVec.ofNat 11 (min u.length 2047)
  if u = [] then raiseDiscard .tooShort n none
  else if u.getLast? ≠ some (xorBytes u.dropLast) then raiseDiscard .checksum n none
  else if u.length - 1 < Config.hdrLen then raiseDiscard .tooShort n none
  else
    let hdr := parseHeader (fun i => u.getD i 0)
    let body := (u.drop Config.hdrLen).dropLast
    if cfg.strictFlags = true ∧ hdr.rsvd ≠ 0 then raiseDiscard .flags n (some hdr)
    else if hdr.bodyLen.toNat ≠ body.length then raiseDiscard .lenMismatch n (some hdr)
    else
      dispatchOut cfg (selectMsg hdr.messageId) { n := n, hdr := hdr, body := body, authOk := authOk }

/-- The verdict on a RawFrame of a stream of bytes, each with the AUTH bit of the step that takes it: the
bit of the end delimiter counts (`45_dispatch.md` R265). -/
def frameVerdict (cfg : Config.Params) (frame : List (Byte × Bool)) : EvtOut :=
  completePayload cfg (unescape ((frameInside frame).map Prod.fst))
    ((frame.getLast?.map Prod.snd).getD false)

end Sys2Proof.Machine
end

