-- ==== Sys2Proof/Safety.lean ====
section
/-! DEFINITION. What counts as a good state and a safe step, in the terms the statements use. -/

namespace Sys2Proof.Machine

/-- The input is one the hardware takes: all but a frame-builder request with a body over 1023 bytes
(`46_frame_builder.md` R293). -/
def Input.admissible : Input → Bool
  | .rx _ _ => true
  | .txByte _ => true
  | .txFrame r => decide (r.body.length ≤ Config.bodyMax)

/-- What every step keeps: the buffer's canonical form, R22's "`fsm = HUNT` implies `esc = 0`", that the
bytes of the frame in progress have been written (R50, R51), and, while the payload fits `PB`, R24's
`xacc = XOR(U)`. -/
structure State.Inv (s : State) : Prop where
  pbWf : s.pb.wf = true
  huntEsc : s.fsm = .hunt → s.esc = false
  written : s.fsm = .inframe → ∀ a, a < s.len.toNat → a < Config.pbSize → (s.pb.byteAt? a).isSome = true
  folded : s.fsm = .inframe → s.len.toNat ≤ Config.pbSize →
    s.xacc = xorBytes (bytesAt (readPb s.pb) 0 s.len.toNat)

/-- Two states that no rule tells apart (`10_state.md` R21, R25): the same control, ports and parameters,
and, while a frame is in progress, the same `len`, `xacc` and the same bytes `PB[i]` for `i < min(len, 1036)`.
Bytes beyond that, and all payload state in HUNT, may differ. -/
structure State.Alike (s t : State) : Prop where
  fsm : s.fsm = t.fsm
  esc : s.esc = t.esc
  inputs : s.inputs = t.inputs
  authOk : s.authOk = t.authOk
  evt : s.evt = t.evt
  txo : s.txo = t.txo
  enc : s.enc = t.enc
  cfg : s.cfg = t.cfg
  len : s.fsm = .inframe → s.len = t.len
  xacc : s.fsm = .inframe → s.xacc = t.xacc
  pb : s.fsm = .inframe →
    ∀ a, a < s.len.toNat → a < Config.pbSize → readPb s.pb a = readPb t.pb a

/-- The ports, the encoder's output and the parameters, but for EVT, are as they were: what no receive operation
writes. -/
def State.SamePorts (s t : State) : Prop :=
  t.inputs = s.inputs ∧ t.authOk = s.authOk ∧ t.txo = s.txo ∧ t.enc = s.enc ∧ t.cfg = s.cfg

/-- `t` has the payload of `s` with the bytes `vs` pushed in that order (`10_state.md` R30): `len` advances by
their number up to 2047, all are folded into `xacc`, and each lands at the address its place gives if that
lies in `PB`; every other byte of `PB` is as it was. -/
def State.Pushed (s t : State) (vs : List Byte) : Prop :=
  t.len.toNat = min (s.len.toNat + vs.length) 2047 ∧
  t.xacc = s.xacc ^^^ xorBytes vs ∧
  ∀ a, readPb t.pb a =
    if s.len.toNat ≤ a ∧ a < s.len.toNat + vs.length ∧ a < Config.pbSize
    then vs.getD (a - s.len.toNat) 0 else readPb s.pb a

end Sys2Proof.Machine
end

