-- ==== Sys2Proof/Certificates/Slice0/Obligations.lean ====
section
/-! DEFINITION. The statements for the provers. Each docstring names the rules of `spec/` it formalises, or
says that it rests on a choice of the model. -/

open Sys2Proof Sys2Proof.Machine

/-! ### Decoding and the step -/

/-- Every operation an input selects is read back from its bytes in its group, whatever follows (R95, R96,
R97); EOF is so in both INFRAME groups. -/
def Obligations.DecodeReadsBackEveryEncoding : Prop :=
  ∀ (i : Instr) (rest : List Byte), i.wf = true →
    decode (encode i).1 ((encode i).2 ++ rest) = .ok (i, rest) ∧
    (i = .eof → ∀ esc, decode (.inframe esc) ((encode i).2 ++ rest) = .ok (i, rest))

/-- What is decoded is well-formed and its encoding is the bytes read, in the group read (EOF: in either
INFRAME group). No two bit patterns of one group are the same operation with the same operand. -/
def Obligations.DecodedBytesAreTheEncoding : Prop :=
  ∀ (g : Group) (bytes rest : List Byte) (i : Instr), decode g bytes = .ok (i, rest) →
    i.wf = true ∧ bytes = (encode i).2 ++ rest ∧
    (g = (encode i).1 ∨ (i = .eof ∧ g = .inframe false))

/-- The nine rows of R95 and its two event rows, in the state the table names. -/
def Obligations.ReceiveRowsSelectOperations : Prop :=
  ∀ (s : State),
    (s.fsm = .hunt → s.esc = false →
      (∀ b : Byte, b ≠ 0x7E → s.rxInstr (.byte b) = .skip b) ∧ s.rxInstr (.byte 0x7E) = .sof) ∧
    (s.fsm = .inframe → s.esc = false →
      (∀ b : Byte, b ≠ 0x7D → b ≠ 0x7E → s.rxInstr (.byte b) = .data b) ∧
      s.rxInstr (.byte 0x7D) = .esc ∧ s.rxInstr (.byte 0x7E) = .eof) ∧
    (s.fsm = .inframe → s.esc = true →
      s.rxInstr (.byte 0x02) = .esc02 ∧ s.rxInstr (.byte 0x01) = .esc01 ∧
      s.rxInstr (.byte 0x7D) = .esc7d ∧
      (∀ b : Byte, b ≠ 0x01 → b ≠ 0x02 → b ≠ 0x7D → b ≠ 0x7E → s.rxInstr (.byte b) = .escx b) ∧
      s.rxInstr (.byte 0x7E) = .eof) ∧
    s.rxInstr .close = .close ∧ s.rxInstr .reset = .reset

/-- The three rows of R96. -/
def Obligations.TransmitRowsSelectOperations : Prop :=
  decodeTx 0x7E = .enc7e ∧ decodeTx 0x7D = .enc7d ∧
  ∀ b : Byte, b ≠ 0x7E → b ≠ 0x7D → decodeTx b = .enclit b

/-- The ten rows of R97: exact comparison of all 16 bits. -/
def Obligations.MessageIdsSelectOperations : Prop :=
  selectMsg 0x0001 = .termAck ∧ selectMsg 0x0002 = .heartbeat ∧ selectMsg 0x0100 = .register ∧
  selectMsg 0x0102 = .auth ∧ selectMsg 0x0200 = .location ∧ selectMsg 0x0300 = .text ∧
  selectMsg 0x0500 = .ctrlResp ∧ selectMsg 0x0900 = .passthru ∧ selectMsg 0x0F01 = .timesync ∧
  ∀ id : Word16, id ≠ 0x0001 → id ≠ 0x0002 → id ≠ 0x0100 → id ≠ 0x0102 → id ≠ 0x0200 → id ≠ 0x0300 →
    id ≠ 0x0500 → id ≠ 0x0900 → id ≠ 0x0F01 → selectMsg id = .unrecognized id

/-- A few words written out from the tables of R95 to R97 decode to the operations they stand for. -/
def Obligations.WrittenOutWordsDecode : Prop :=
  decode (.inframe true) [0x02] = .ok (.esc02, []) ∧ decode (.inframe false) [0x02] = .ok (.data 0x02, []) ∧
  decode .hunt [0x7E] = .ok (.sof, []) ∧ decode (.inframe false) [0x7E] = .ok (.eof, []) ∧
  decode .txByte [0x7D] = .ok (.enc7d, []) ∧ decode .msgId [0x0F, 0x01] = .ok (.timesync, []) ∧
  decode .msgId [0x80, 0x01] = .ok (.unrecognized 0x8001, [])

/-- A step with an event at RX is the decoded operation on the state that has taken the event and its AUTH
bit; a step with a byte for the escape encoder is the decoded transmit operation. -/
def Obligations.StepRunsTheDecodedOperation : Prop :=
  ∀ (s : State) (rest : List Input) (i : Instr), i.wf = true →
    (∀ b a, s.inputs = .rx (.byte b) a :: rest → decode (rxGroup s.fsm s.esc) [b] = .ok (i, []) →
      step s = exec i { s with inputs := rest, authOk := a }) ∧
    (∀ a, s.inputs = .rx .close a :: rest → decode .closeEvent [] = .ok (i, []) →
      step s = exec i { s with inputs := rest, authOk := a }) ∧
    (∀ a, s.inputs = .rx .reset a :: rest → decode .resetEvent [] = .ok (i, []) →
      step s = exec i { s with inputs := rest, authOk := a }) ∧
    (∀ b, s.inputs = .txByte b :: rest → decode .txByte [b] = .ok (i, []) →
      step s = exec i { s with inputs := rest })

/-- A unit with no input holds its state (R335; log 12). -/
def Obligations.UnitWithoutInputHoldsItsState : Prop :=
  ∀ s : State, s.inputs = [] → step s = .next s

/-! ### Byte and event operations -/

/-- SKIP (R172): nothing changes. -/
def Obligations.SkipChangesNothing : Prop :=
  ∀ (s : State) (b : Byte),
    (s.fsm = .hunt → b ≠ 0x7E → s.rxInstr (.byte b) = .skip b) ∧ exec (.skip b) s = .next s

/-- SOF (R173): `fsm <- INFRAME; esc <- 0; len <- 0; xacc <- 0x00`, and nothing else. -/
def Obligations.SofOpensAFrame : Prop :=
  ∀ s : State,
    (s.fsm = .hunt → s.rxInstr (.byte 0x7E) = .sof) ∧
    exec .sof s = .next { s with fsm := .inframe, esc := false, len := 0, xacc := 0x00 }

/-- `push` (R30) in any number: the counter, the accumulator and every byte of `PB` after pushing `vs`, with
everything else as it was. -/
def Obligations.PushesAdvanceThePayload : Prop :=
  ∀ (s : State) (vs : List Byte),
    s.Pushed (s.pushAll vs) vs ∧ (s.pushAll vs).fsm = s.fsm ∧ (s.pushAll vs).esc = s.esc ∧
    (s.pushAll vs).evt = s.evt ∧ s.SamePorts (s.pushAll vs)

/-- DATA (R174): `push(b)`, no flag, no output. -/
def Obligations.DataPushesItsByte : Prop :=
  ∀ (s : State) (b : Byte),
    (s.fsm = .inframe → s.esc = false → b ≠ 0x7D → b ≠ 0x7E → s.rxInstr (.byte b) = .data b) ∧
    ∃ t, exec (.data b) s = .next t ∧ s.Pushed t [b] ∧ t.fsm = s.fsm ∧ t.esc = s.esc ∧
      t.evt = s.evt ∧ s.SamePorts t

/-- ESC (R141): `esc <- 1`, nothing pushed, no output. -/
def Obligations.EscRemembersTheMarker : Prop :=
  ∀ s : State,
    (s.fsm = .inframe → s.esc = false → s.rxInstr (.byte 0x7D) = .esc) ∧
    exec .esc s = .next { s with esc := true }

/-- ESC02 (R142) pushes 0x7E and ESC01 (R143) pushes 0x7D; both clear `esc`, neither puts anything out. ESC02
is the only way a payload byte 0x7E can arise: what any other byte operation in a frame pushes is free of it. -/
def Obligations.EscapePairsPushOneByte : Prop :=
  ∀ s : State,
    (s.fsm = .inframe → s.esc = true → s.rxInstr (.byte 0x02) = .esc02) ∧
    (s.fsm = .inframe → s.esc = true → s.rxInstr (.byte 0x01) = .esc01) ∧
    (∃ t, exec .esc02 s = .next t ∧ s.Pushed t [0x7E] ∧ t.fsm = s.fsm ∧ t.esc = false ∧
      t.evt = s.evt ∧ s.SamePorts t) ∧
    (∃ t, exec .esc01 s = .next t ∧ s.Pushed t [0x7D] ∧ t.fsm = s.fsm ∧ t.esc = false ∧
      t.evt = s.evt ∧ s.SamePorts t) ∧
    (∀ b : Byte, s.fsm = .inframe → s.rxInstr (.byte b) ≠ .esc02 →
      ∃ t vs, exec (s.rxInstr (.byte b)) s = .next t ∧ s.Pushed t vs ∧ (0x7E : Byte) ∉ vs)

/-- ESC7D (R144): pushes the earlier marker, the new one is pending: `esc` keeps its value. -/
def Obligations.MarkerAfterMarkerPushesTheFirst : Prop :=
  ∀ s : State,
    (s.fsm = .inframe → s.esc = true → s.rxInstr (.byte 0x7D) = .esc7d) ∧
    ∃ t, exec .esc7d s = .next t ∧ s.Pushed t [0x7D] ∧ t.fsm = s.fsm ∧ t.esc = s.esc ∧
      t.evt = s.evt ∧ s.SamePorts t

/-- ESCX (R145): pushes 0x7D and then `b`, clears `esc`; every other byte operation pushes at most one byte. -/
def Obligations.MalformedEscapePushesBothBytes : Prop :=
  ∀ (s : State) (b : Byte),
    (s.fsm = .inframe → s.esc = true → b ≠ 0x01 → b ≠ 0x02 → b ≠ 0x7D → b ≠ 0x7E →
      s.rxInstr (.byte b) = .escx b) ∧
    (∃ t, exec (.escx b) s = .next t ∧ s.Pushed t [0x7D, b] ∧ t.fsm = s.fsm ∧ t.esc = false ∧
      t.evt = s.evt ∧ s.SamePorts t) ∧
    (s.fsm = .inframe → s.rxInstr (.byte b) ≠ .escx b →
      ∃ t vs, exec (s.rxInstr (.byte b)) s = .next t ∧ s.Pushed t vs ∧ vs.length ≤ 1)

/-- EOF (R175, R146): a pending marker is pushed first; `fsm <- HUNT`, `esc <- 0`; one value on EVT, the
`Complete` of what is then in the unit; nothing else changes. -/
def Obligations.EofCompletesTheFrame : Prop :=
  ∀ s : State,
    (s.fsm = .inframe → s.rxInstr (.byte 0x7E) = .eof) ∧
    ∃ t, exec .eof s = .next t ∧ s.Pushed t (if s.esc = true then [0x7D] else []) ∧
      t.fsm = .hunt ∧ t.esc = false ∧ s.SamePorts t ∧
      t.evt = s.evt ++ [complete t.cfg (readPb t.pb) t.len t.xacc t.authOk]

/-- CLOSE (R183) and RESET (R184), in any state: the registers of R32 and no output. The statement says nothing
of `PB`, which R32 leaves unspecified there (log 5). -/
def Obligations.CloseAndResetReturnToHunt : Prop :=
  ∀ s : State,
    s.rxInstr .close = .close ∧ s.rxInstr .reset = .reset ∧
    (∃ t, exec .close s = .next t ∧ t.fsm = .hunt ∧ t.esc = false ∧ t.len = 0 ∧ t.xacc = 0x00 ∧
      t.evt = s.evt ∧ s.SamePorts t) ∧
    (∃ t, exec .reset s = .next t ∧ t.fsm = .hunt ∧ t.esc = false ∧ t.len = 0 ∧ t.xacc = 0x00 ∧
      t.evt = s.evt ∧ s.SamePorts t)

/-- The values R32 gives, in the model's reset state and after `Reset` and `Close` in any state; `PB` is left
out, which the rule leaves unspecified. -/
def Obligations.ResetLeavesTheStatedValues : Prop :=
  (State.reset.fsm = .hunt ∧ State.reset.esc = false ∧ State.reset.len = 0 ∧ State.reset.xacc = 0x00) ∧
  ∀ (s : State) (ev : RxEvent) (a : Bool) (rest : List Input), (ev = .reset ∨ ev = .close) →
    s.inputs = .rx ev a :: rest →
    ∃ t, step s = .next t ∧ t.fsm = State.reset.fsm ∧ t.esc = State.reset.esc ∧ t.len = State.reset.len ∧
      t.xacc = State.reset.xacc

/-! ### Completion of a frame -/

/-- `ParseHeader` (R221) and the field assembly of R86, as numbers. -/
def Obligations.HeaderFieldsAreBigEndian : Prop :=
  ∀ rd : Nat → Byte,
    let h := parseHeader rd
    h.messageId.toNat = (rd 0).toNat * 256 + (rd 1).toNat ∧
    h.bodyProperties.toNat = (rd 2).toNat * 256 + (rd 3).toNat ∧
    h.bodyLen.toNat = (rd 2).toNat % 4 * 256 + (rd 3).toNat ∧
    h.rsvd.toNat = (rd 2).toNat / 4 ∧
    h.serialNumber.toNat = (rd 10).toNat * 256 + (rd 11).toNat ∧
    h.tid6.bytes = [rd 4, rd 5, rd 6, rd 7, rd 8, rd 9]

/-- The terminal id string always has twelve characters, the decoder's over the six bytes (R122), and
`tid_bcd_ok` is 1 exactly when every nibble is at most 9 (R123). -/
def Obligations.TerminalIdStringIsNeverTrimmed : Prop :=
  ∀ rd : Nat → Byte,
    let h := parseHeader rd
    h.tidStr.length = 12 ∧ decodeBCD (bytesAt rd 0 12) 4 6 = .ok h.tidStr ∧
    (h.tidBcdOk = true ↔ ∀ a, 4 ≤ a → a ≤ 9 → (rd a).toNat / 16 ≤ 9 ∧ (rd a).toNat % 16 ≤ 9)

/-- The checks of `Complete` in the order of R315, each with the record of R312; what passes them all is
an event that carries the header and the `n - 13` body bytes. -/
def Obligations.CompletionChecksInOrder : Prop :=
  ∀ (cfg : Config.Params) (rd : Nat → Byte) (n : BitVec 11) (xacc : Byte) (authOk : Bool),
    let h := parseHeader rd
    let out := complete cfg rd n xacc authOk
    let rec0 (r : DiscardReason) (hdr : Option Header) : EvtOut :=
      .discard { reason := r, n := n, ovf := decide (1036 < n.toNat), hdr := hdr }
    (n.toNat = 0 → out = rec0 .tooShort none) ∧
    (1 ≤ n.toNat → xacc ≠ 0 → out = rec0 .checksum none) ∧
    (1 ≤ n.toNat → n.toNat ≤ 12 → xacc = 0 → out = rec0 .tooShort none) ∧
    (13 ≤ n.toNat → xacc = 0 →
      (cfg.strictFlags = true → h.rsvd ≠ 0 → out = rec0 .flags (some h)) ∧
      ((cfg.strictFlags = false ∨ h.rsvd = 0) →
        (h.bodyLen.toNat ≠ n.toNat - 13 → out = rec0 .lenMismatch (some h)) ∧
        (h.bodyLen.toNat = n.toNat - 13 →
          (n.toNat - 13 < minBody cfg (selectMsg h.messageId) → out = rec0 .decodeFail (some h)) ∧
          (minBody cfg (selectMsg h.messageId) ≤ n.toNat - 13 →
            ∃ e, out = .event e ∧ e.hdr = h ∧ e.body = (List.range (n.toNat - 13)).map (fun i => rd (12 + i))))))

/-- An over-long payload (R228) never reaches the dispatcher: it is a discard for its checksum, its flags or
its length, and says that it did not fit. -/
def Obligations.OverlongPayloadsAreDiscarded : Prop :=
  ∀ (cfg : Config.Params) (rd : Nat → Byte) (n : BitVec 11) (xacc : Byte) (authOk : Bool),
    1037 ≤ n.toNat →
      ∃ d, complete cfg rd n xacc authOk = .discard d ∧ d.ovf = true ∧ d.n = n ∧
        (d.reason = .checksum ∨ d.reason = .flags ∨ d.reason = .lenMismatch)

/-- The hardware's checksum test is the source's (R201): all bytes fold to 0 exactly when the last byte is the
exclusive-or of the bytes before it. -/
def Obligations.ZeroFoldIsChecksumMatch : Prop :=
  ∀ u : List Byte, u ≠ [] → (xorBytes u = 0 ↔ u.getLast? = some (xorBytes u.dropLast))

/-- `auth_ok` is consulted by REGISTER alone (R265): on any other message id the verdict does not depend on
it. -/
def Obligations.OnlyRegistrationReadsAuthorization : Prop :=
  ∀ (cfg : Config.Params) (rd : Nat → Byte) (n : BitVec 11) (xacc : Byte) (a a' : Bool),
    (parseHeader rd).messageId ≠ 0x0100 → complete cfg rd n xacc a = complete cfg rd n xacc a'

/-- The step that takes the end delimiter of a frame that passes the checks puts out what the dispatch
operation selected by its `messageId` gives on that frame (R176, R250; log 10), with `fsm` HUNT and `esc` 0
after it. -/
def Obligations.EndDelimiterRunsTheSelectedDispatch : Prop :=
  ∀ (s : State) (a : Bool) (rest : List Input),
    s.fsm = .inframe → s.esc = false → s.inputs = .rx (.byte 0x7E) a :: rest →
    13 ≤ s.len.toNat → s.xacc = 0 →
    (s.cfg.strictFlags = false ∨ s.frame.hdr.rsvd = 0) →
    s.frame.hdr.bodyLen.toNat = s.len.toNat - 13 →
      ∃ u, exec (instrOfMsgOp (selectMsg s.frame.hdr.messageId)) { s with inputs := rest, authOk := a } = .next u ∧
        step s = .next { u with fsm := .hunt }

/-! ### Dispatch operations -/

/-- AUTH (R255), HEARTBEAT (R256), TEXT (R260) and CTRL_RESP (R261) on any body: one event of their kind with a
universal response, result 0, and no other change, for the frame the unit holds (log 10). -/
def Obligations.AcknowledgedKindsAnswerUniversalOk : Prop :=
  ∀ (s : State) (i : Instr) (k : EventKind),
    ((i, k) = (.auth, .authentication) ∨ (i, k) = (.heartbeat, .heartbeat) ∨
      (i, k) = (.text, .textMessage) ∨ (i, k) = (.ctrlResp, .controlResponse)) →
    exec i s = .next { s with evt := s.evt ++ [.event
      { kind := k, hdr := s.frame.hdr, body := s.frame.body, reg := none,
        resp := { rclass := .universal, respId := 0x8001, tid6 := s.frame.hdr.tid6,
                  ackSerial := s.frame.hdr.serialNumber, ackMsgId := s.frame.hdr.messageId,
                  result := 0x00 } }] }

/-- UNRECOGNIZED (R264): the same with result 3 (log 10). -/
def Obligations.UnrecognizedAnswersResultThree : Prop :=
  ∀ (s : State) (id : Word16),
    exec (.unrecognized id) s = .next { s with evt := s.evt ++ [.event
      { kind := .unrecognized, hdr := s.frame.hdr, body := s.frame.body, reg := none,
        resp := { rclass := .universal, respId := 0x8001, tid6 := s.frame.hdr.tid6,
                  ackSerial := s.frame.hdr.serialNumber, ackMsgId := s.frame.hdr.messageId,
                  result := 0x03 } }] }

/-- TERM_ACK (R259): the event carries response class NONE, id 0x0000 and result 0x00 (log 10). -/
def Obligations.TerminalAckGetsNoResponse : Prop :=
  ∀ s : State,
    exec .termAck s = .next { s with evt := s.evt ++ [.event
      { kind := .terminalCommonResponse, hdr := s.frame.hdr, body := s.frame.body, reg := none,
        resp := { rclass := .none, respId := 0x0000, tid6 := s.frame.hdr.tid6,
                  ackSerial := s.frame.hdr.serialNumber, ackMsgId := s.frame.hdr.messageId,
                  result := 0x00 } }] }

/-- TIMESYNC (R262): response 0x8F01 with result 0x01 (log 10). -/
def Obligations.TimesyncAnswersResultOne : Prop :=
  ∀ s : State,
    exec .timesync s = .next { s with evt := s.evt ++ [.event
      { kind := .timeSyncRequest, hdr := s.frame.hdr, body := s.frame.body, reg := none,
        resp := { rclass := .timesyncAck, respId := 0x8F01, tid6 := s.frame.hdr.tid6,
                  ackSerial := s.frame.hdr.serialNumber, ackMsgId := s.frame.hdr.messageId,
                  result := 0x01 } }] }

/-- PASSTHRU (R263) and LOCATION (R257) with a body of at least their minimum: one event with a universal
response, result 0; with a shorter body: `Discard(DECODE_FAIL)` with the header (R258). The minimum is 1 and
the parameter `LOC_MIN_BODY`. The frame is the one the unit holds (log 10). -/
def Obligations.MinimumBodyGuardsPassthruAndLocation : Prop :=
  ∀ (s : State) (i : Instr) (k : EventKind) (m : Nat),
    ((i, k, m) = (.passthru, .dataPassThrough, 1) ∨
      (i, k, m) = (.location, .locationReport, s.cfg.locMinBody.val)) →
    (m ≤ s.frame.body.length →
      exec i s = .next { s with evt := s.evt ++ [.event
        { kind := k, hdr := s.frame.hdr, body := s.frame.body, reg := none,
          resp := { rclass := .universal, respId := 0x8001, tid6 := s.frame.hdr.tid6,
                    ackSerial := s.frame.hdr.serialNumber, ackMsgId := s.frame.hdr.messageId,
                    result := 0x00 } }] }) ∧
    (s.frame.body.length < m →
      exec i s = .next { s with evt := s.evt ++ [.discard
        { reason := .decodeFail, n := s.len, ovf := decide (1036 < s.len.toNat),
          hdr := some s.frame.hdr }] })

/-- REGISTER (R254): with a body of at least 37 bytes, one Registration event with the sliced fields and the
response 0x8100, result 0 when `auth_ok` is 1 and 1 when it is 0; with a shorter body,
`Discard(DECODE_FAIL)` with the header. The fields are a partition of the body into 2, 2, 5, 20, 7, 1 and the
remaining bytes. The frame is the one the unit holds (log 10). -/
def Obligations.RegistrationSlicesItsBody : Prop :=
  ∀ s : State,
    (37 ≤ s.frame.body.length →
      ∃ r : RegFields,
        exec .register s = .next { s with evt := s.evt ++ [.event
          { kind := .registration, hdr := s.frame.hdr, body := s.frame.body, reg := some r,
            resp := { rclass := .regAck, respId := 0x8100, tid6 := s.frame.hdr.tid6,
                      ackSerial := s.frame.hdr.serialNumber, ackMsgId := s.frame.hdr.messageId,
                      result := if s.authOk = true then 0x00 else 0x01 } }] } ∧
        bytesOfWord r.province ++ bytesOfWord r.city ++ r.manufacturerId ++ r.terminalModel ++
          r.regTerminalId ++ [r.plateColor] ++ r.vin = s.frame.body ∧
        r.manufacturerId.length = 5 ∧ r.terminalModel.length = 20 ∧ r.regTerminalId.length = 7) ∧
    (s.frame.body.length < 37 →
      exec .register s = .next { s with evt := s.evt ++ [.discard
        { reason := .decodeFail, n := s.len, ovf := decide (1036 < s.len.toNat),
          hdr := some s.frame.hdr }] })

/-- The operands of a dispatch operation: the header in `PB[0..11]`, and `bodyLen` bytes from `PB[12]` on
(R221, R227), all inside `PB` (log 10). -/
def Obligations.DispatchOperandsLieInTheBuffer : Prop :=
  ∀ s : State,
    s.frame.hdr = parseHeader (readPb s.pb) ∧ s.frame.body.length = s.frame.hdr.bodyLen.toNat ∧
    12 + s.frame.body.length ≤ 1035 ∧
    (∀ i, i < s.frame.body.length → s.frame.body[i]? = some (readPb s.pb (12 + i))) ∧
    s.frame.authOk = s.authOk ∧ s.frame.n = s.len

/-- The numbers of R94 and R310. -/
def Obligations.OutputCodesAreTheListedNumbers : Prop :=
  [EventKind.registration, .authentication, .heartbeat, .locationReport, .textMessage, .controlResponse,
    .timeSyncRequest, .dataPassThrough, .terminalCommonResponse, .unrecognized].map eventKindCode
      = [0, 1, 2, 3, 4, 5, 6, 7, 8, 9] ∧
  [DiscardReason.tooShort, .checksum, .flags, .lenMismatch, .decodeFail].map discardCode = [1, 2, 3, 4, 5] ∧
  [RespClass.none, .universal, .regAck, .timesyncAck].map respClassCode = [0, 1, 2, 3]

/-! ### BCD -/

/-- `decodeBCD` (R120): two characters a byte, high nibble first; outside the bytes it is a refusal (R124). -/
def Obligations.BcdDecodesHighNibbleFirst : Prop :=
  ∀ (bytes : List Byte) (offset length : Nat),
    (offset + length ≤ bytes.length →
      ∃ out, decodeBCD bytes offset length = .ok out ∧ out.length = 2 * length ∧
        ∀ i, i < length → ∃ b, bytes[offset + i]? = some b ∧
          out[2 * i]? = some (hexchar (b.extractLsb' 4 4)) ∧
          out[2 * i + 1]? = some (hexchar (b.extractLsb' 0 4))) ∧
    (bytes.length < offset + length → decodeBCD bytes offset length = .error .bcdOutOfRange)

/-- `hexchar` (R121): `0` to `9` and `A` to `F` by their ASCII codes (log 15). -/
def Obligations.HexcharIsTheUpperCaseDigit : Prop :=
  ∀ d : Nibble, (d.toNat ≤ 9 → (hexchar d).toNat = 0x30 + d.toNat) ∧
    (10 ≤ d.toNat → (hexchar d).toNat = 0x41 + (d.toNat - 10))

/-- The round trips of R126: encode then decode gives the right-aligned string, which has `2 * n` characters;
decode then encode gives the six bytes back when every nibble is decimal. A string with another character is
refused (R125). -/
def Obligations.BcdRoundTrips : Prop :=
  (∀ (s : List Byte) (n : Nat), (∀ c ∈ s, 0x30 ≤ c.toNat ∧ c.toNat ≤ 0x39) →
    ∃ t, encodeBCD s n = .ok t ∧ t.length = n ∧ decodeBCD t 0 n = .ok (rightAligned s n) ∧
      (rightAligned s n).length = 2 * n) ∧
  (∀ t : TermId, tidBcdOk t = true →
    ∃ str, decodeBCD t.bytes 0 6 = .ok str ∧ encodeBCD str 6 = .ok t.bytes) ∧
  (∀ (s : List Byte) (n : Nat), (∃ c ∈ s, c.toNat < 0x30 ∨ 0x39 < c.toNat) →
    encodeBCD s n = .error .notDecimalDigit)

/-! ### Escape codec and frame builder -/

/-- ENC7E (R151), ENC7D (R152), ENCLIT (R153): the bytes put out, and no other change. The output is the model's
own, `enc` (log 18). -/
def Obligations.EncoderPutsOutOneOrTwoBytes : Prop :=
  ∀ (s : State) (b : Byte),
    exec .enc7e s = .next { s with enc := s.enc ++ [0x7D, 0x02] } ∧
    exec .enc7d s = .next { s with enc := s.enc ++ [0x7D, 0x01] } ∧
    exec (.enclit b) s = .next { s with enc := s.enc ++ [b] }

/-- Bytes fed to the encoder one a step put out `Escape` of their sequence, on the model's own output `enc`
(log 18), and change nothing else (R150, R154). -/
def Obligations.EncoderStepsComputeEscape : Prop :=
  ∀ (s : State) (xs : List Byte) (rest : List Input),
    s.inputs = xs.map Input.txByte ++ rest →
      Sys2Proof.core.run xs.length s = .next { s with inputs := rest, enc := s.enc ++ escape xs }

/-- `Escape(X)` (R154) never holds 0x7E and has between `|X|` and `2 * |X|` bytes; `|Unescape(C)| <= |C|`
(R140). -/
def Obligations.EscapedBytesHoldNoDelimiter : Prop :=
  ∀ x : List Byte, (0x7E : Byte) ∉ escape x ∧ x.length ≤ (escape x).length ∧
    (escape x).length ≤ 2 * x.length ∧ (unescape x).length ≤ x.length

/-- The laws of R155: `Unescape(Escape(X)) = X` for all `X`; on sequences without 0x7E and 0x7D both functions
are the identity; the other law fails at 7D 03, and `Unescape` is not injective. -/
def Obligations.UnescapeUndoesEscape : Prop :=
  (∀ x : List Byte, unescape (escape x) = x) ∧
  (∀ x : List Byte, (∀ b ∈ x, b ≠ 0x7E ∧ b ≠ 0x7D) → escape x = x ∧ unescape x = x) ∧
  escape (unescape [0x7D, 0x03]) = [0x7D, 0x01, 0x03] ∧
  unescape [0x7D, 0x01] = [0x7D] ∧ unescape [0x7D] = [0x7D]

/-- The frame builder (R292): delimiter, `Escape` of header, body and their checksum, delimiter, as one byte
sequence on TXO, with nothing else changed; the output is `|body| + 15` to `2 * (|body| + 13) + 2` bytes. A
body longer than 1023 bytes is refused (R293). A request is one step (logs 13, 14). -/
def Obligations.BuilderFramesOrRefuses : Prop :=
  ∀ (s : State) (r : TxRequest) (rest : List Input), s.inputs = .txFrame r :: rest →
    (r.body.length ≤ 1023 →
      let c := [r.msgId.extractLsb' 8 8, r.msgId.extractLsb' 0 8,
          BitVec.ofNat 8 (r.body.length / 256), BitVec.ofNat 8 (r.body.length % 256),
          r.tid6.b0, r.tid6.b1, r.tid6.b2, r.tid6.b3, r.tid6.b4, r.tid6.b5,
          r.serial.extractLsb' 8 8, r.serial.extractLsb' 0 8] ++ r.body
      let out := [0x7E] ++ escape (c ++ [xorBytes c]) ++ [0x7E]
      step s = .next { s with inputs := rest, txo := s.txo ++ [out] } ∧
      r.body.length + 15 ≤ out.length ∧ out.length ≤ 2 * (r.body.length + 13) + 2) ∧
    (1023 < r.body.length → step s = .refused .bodyTooLong)

/-- Every frame the builder makes, unescaped and without its delimiters, ends in the exclusive-or of the bytes
before it (R205). -/
def Obligations.BuiltFramesEndInTheirChecksum : Prop :=
  ∀ (r : TxRequest) (bytes : List Byte), buildFrame r = .ok bytes →
    (unescape (frameInside bytes)).getLast? = some (xorBytes (unescape (frameInside bytes)).dropLast)

/-- Loop-back (R294): a built frame fed to a unit in HUNT reaches the dispatcher with the header and body it
was built from, whatever the unit held. -/
def Obligations.BuiltFramesLoopBack : Prop :=
  ∀ (s : State) (r : TxRequest) (bytes : List Byte) (a : Bool) (rest : List Input),
    s.fsm = .hunt → buildFrame r = .ok bytes →
    s.inputs = bytes.map (fun b => Input.rx (.byte b) a) ++ rest →
      ∃ (t : State) (f : Frame),
        Sys2Proof.core.run bytes.length s = .next t ∧ t.inputs = rest ∧
        t.fsm = .hunt ∧ t.len.toNat = r.body.length + 13 ∧ t.xacc = 0 ∧
        t.evt = s.evt ++ [dispatchOut s.cfg (selectMsg r.msgId) f] ∧
        f.hdr.messageId = r.msgId ∧ f.hdr.tid6 = r.tid6 ∧ f.hdr.serialNumber = r.serial ∧
        f.hdr.bodyProperties.toNat = r.body.length ∧ f.hdr.rsvd = 0 ∧
        f.hdr.bodyLen.toNat = r.body.length ∧ decodeBCD r.tid6.bytes 0 6 = .ok f.hdr.tidStr ∧
        f.hdr.tidBcdOk = tidBcdOk r.tid6 ∧ f.body = r.body ∧ f.n = t.len ∧ f.authOk = a

/-! ### The receive path as a whole -/

/-- The streaming decoder is `Unescape` (R147): after content bytes `c`, none of them 0x7E, taken in INFRAME
with `esc` 0, what has been pushed is `Unescape(c)`, or, while a marker is pending, `Unescape` of `c` without
its last byte; after EOF's pending push it is `Unescape(c)` in both cases. -/
def Obligations.StreamingDecoderIsUnescape : Prop :=
  ∀ (s : State) (c : List (Byte × Bool)),
    s.fsm = .inframe → s.esc = false → (∀ p ∈ c, p.1 ≠ 0x7E) →
    s.inputs = c.map (fun p => Input.rx (.byte p.1) p.2) →
      ∃ t : State, Sys2Proof.core.run c.length s = .next t ∧ t.fsm = .inframe ∧ t.evt = s.evt ∧
        (t.esc = false → s.Pushed t (unescape (c.map Prod.fst))) ∧
        (t.esc = true → (c.map Prod.fst).getLast? = some 0x7D ∧
          s.Pushed t (unescape (c.map Prod.fst).dropLast)) ∧
        s.Pushed t.flushEsc (unescape (c.map Prod.fst))

/-- The hardware is the source's receive path (R185, with R201 and R228): from HUNT, a stream of bytes makes
the unit put out, in order, the verdict of the unbounded software on each RawFrame of `Split`, and leaves it
in INFRAME exactly when a delimiter is left in the software's buffer. -/
def Obligations.StreamingReceiverIsSplitAndCheck : Prop :=
  ∀ (s : State) (stream : List (Byte × Bool)),
    s.fsm = .hunt → s.inputs = stream.map (fun p => Input.rx (.byte p.1) p.2) →
      ∃ t : State, Sys2Proof.core.run stream.length s = .next t ∧
        t.evt = s.evt ++ (split Prod.fst stream).1.map (frameVerdict s.cfg) ∧
        (t.fsm = .inframe ↔ ∃ p ∈ (split Prod.fst stream).2, p.1 = 0x7E)

/-- Independence of chunking (R186): taking the inputs `xs` and then finding `ys` is the same as finding
`xs ++ ys` at once. -/
def Obligations.ChunkingOfTheStreamIsInvisible : Prop :=
  ∀ (s t : State) (xs ys : List Input),
    Sys2Proof.core.run xs.length { s with inputs := xs } = .next t →
      Sys2Proof.core.run (xs.length + ys.length) { s with inputs := xs ++ ys } =
        Sys2Proof.core.run ys.length { t with inputs := ys }

/-- Two adjacent delimiters are an empty frame (R188): discarded as TOO_SHORT with `n = 0`, and the second
delimiter opens nothing. -/
def Obligations.AdjacentDelimitersAreAnEmptyFrame : Prop :=
  ∀ (s : State) (a a' : Bool) (rest : List Input),
    s.fsm = .hunt → s.inputs = .rx (.byte 0x7E) a :: .rx (.byte 0x7E) a' :: rest →
      ∃ t : State, Sys2Proof.core.run 2 s = .next t ∧ t.fsm = .hunt ∧ t.inputs = rest ∧
        t.evt = s.evt ++ [.discard { reason := .tooShort, n := 0, ovf := false, hdr := none }]

/-- No shared delimiters (R189): `7E A 7E B 7E` with `A` and `B` free of 0x7E is one frame, `B` is skipped and
the last 0x7E opens a frame. -/
def Obligations.DelimitersAreNeverShared : Prop :=
  ∀ (s : State) (xs ys : List Byte) (a : Bool),
    s.fsm = .hunt → (0x7E : Byte) ∉ xs → (0x7E : Byte) ∉ ys →
    s.inputs = ((0x7E :: xs ++ [0x7E]) ++ ys ++ [0x7E]).map (fun b => Input.rx (.byte b) a) →
      ∃ (t : State), Sys2Proof.core.run s.inputs.length s = .next t ∧
        t.evt = s.evt ++ [completePayload s.cfg (unescape xs) a] ∧
        t.fsm = .inframe ∧ t.esc = false ∧ t.len = 0 ∧ t.xacc = 0

/-- Every operation, from every state, answers a next state (R322): no operation faults, halts or refuses. -/
def Obligations.EveryOperationAnswersNext : Prop :=
  ∀ (i : Instr) (s : State), ∃ t, exec i s = .next t

/-- A step refuses exactly when it takes a frame-builder request over 1023 bytes (R293, log 14), and answers a
next state in every other case (R322). -/
def Obligations.StepRefusesOnlyLongBodies : Prop :=
  ∀ s : State,
    ((∀ i, s.inputs.head? = some i → i.admissible = true) → ∃ t, step s = .next t) ∧
    ((∃ i, s.inputs.head? = some i ∧ i.admissible = false) → step s = .refused .bodyTooLong)

/-- A step takes exactly one input event (R9) and leaves the parameters as they are (R351). -/
def Obligations.StepTakesOneInputAndKeepsParameters : Prop :=
  ∀ s t : State, step s = .next t → t.inputs = s.inputs.tail ∧ t.cfg = s.cfg

/-- A step puts at most one value on EVT (R9), and exactly when it takes a delimiter in INFRAME, that is, when
it performs EOF (R310). -/
def Obligations.OutputExactlyAtEndDelimiters : Prop :=
  ∀ s t : State, step s = .next t →
    ((∃ a rest, s.fsm = .inframe ∧ s.inputs = .rx (.byte 0x7E) a :: rest) → ∃ o, t.evt = s.evt ++ [o]) ∧
    (¬ (∃ a rest, s.fsm = .inframe ∧ s.inputs = .rx (.byte 0x7E) a :: rest) → t.evt = s.evt)

/-- The transitions of `fsm` are those of R171. -/
def Obligations.FsmChangesOnlyAsListed : Prop :=
  ∀ s t : State, step s = .next t →
    (∀ a rest, s.inputs = .rx (.byte 0x7E) a :: rest →
      (s.fsm = .hunt → t.fsm = .inframe) ∧ (s.fsm = .inframe → t.fsm = .hunt)) ∧
    (∀ ev a rest, s.inputs = .rx ev a :: rest → ev = .close ∨ ev = .reset → t.fsm = .hunt) ∧
    ((∀ ev a rest, s.inputs = .rx ev a :: rest → ∃ b : Byte, ev = .byte b ∧ b ≠ 0x7E) → t.fsm = s.fsm)

/-- `PB` is written one byte at a time at `len`, never in HUNT and never at 1036 or above (R25, R51): a byte
that a step changes lies from `len` before the step up to `len` after it. The events `Close` and `Reset`, after
which `PB` is unspecified (R32, log 5), are left out. -/
def Obligations.BufferIsWrittenOnlyAtLen : Prop :=
  ∀ (s t : State) (a : Nat), step s = .next t →
    (∀ b rest, s.inputs ≠ .rx .close b :: rest ∧ s.inputs ≠ .rx .reset b :: rest) →
    readPb t.pb a ≠ readPb s.pb a →
    s.fsm = .inframe ∧ s.len.toNat ≤ a ∧ a < t.len.toNat ∧ a < 1036

/-- The frame builder and the escape encoder share nothing with the receive path (R150, R290): a step that
takes their input leaves every register, `PB` and EVT as they are, the encoder writing only `enc` (log 18) and the
builder only TXO; a step that takes an event at RX leaves both as they are. -/
def Obligations.TransmitAndReceiveShareNothing : Prop :=
  ∀ s t : State, step s = .next t →
    (∀ b rest, s.inputs = .txByte b :: rest → t = { s with inputs := rest, enc := t.enc }) ∧
    (∀ r rest, s.inputs = .txFrame r :: rest → t = { s with inputs := rest, txo := t.txo }) ∧
    (∀ ev a rest, s.inputs = .rx ev a :: rest → t.txo = s.txo ∧ t.enc = s.enc)

/-- An invariant every step keeps: `PB` in canonical form, `esc` 0 in HUNT (R22), the bytes of the frame in
progress written (R50), and `xacc` their exclusive-or while they fit (R24). -/
def Obligations.StepKeepsTheInvariant : Prop :=
  ∀ s t : State, s.Inv → step s = .next t → t.Inv

/-- The invariant holds after reset. -/
def Obligations.InvariantHoldsAtReset : Prop := State.reset.Inv

/-- `PB[i]` for `i >= min(len, 1036)`, and all payload state in HUNT, are never observed (R21, R25): two states
that differ only there take the same steps and stay so, with the same outputs. -/
def Obligations.StalePayloadIsNeverObserved : Prop :=
  ∀ s t : State, s.Alike t →
    (∀ s', step s = .next s' → ∃ t', step t = .next t' ∧ s'.Alike t') ∧
    (∀ r, step s = .refused r → step t = .refused r)

/-- Channels share no state (R61, R331): after any interleaving of steps, each instance is where its own steps
alone would have brought it; and the interleaving can always be made when it names instances of the block and
no instance is given a body over 1023 bytes to frame (logs 7, 14). -/
def Obligations.ChannelsNeverInteract : Prop :=
  ∀ (blk : Block) (sched : List Nat),
    (∀ blk', blk.run sched = .next blk' →
      blk'.chans.length = blk.chans.length ∧
      ∀ (k : Nat) (s : State), blk.chans[k]? = some s →
        ∃ s' : State, Sys2Proof.core.run (sched.count k) s = .next s' ∧ blk'.chans[k]? = some s') ∧
    ((∀ k ∈ sched, k < blk.chans.length) →
      (∀ s ∈ blk.chans, ∀ i ∈ s.inputs, i.admissible = true) →
      ∃ blk', blk.run sched = .next blk')
end

