-- ==== Sys2Proof/Laws/Channels.lean ====
section
/-! SUPPORT. The instances of a block by their number, and what a step of a block can do. -/

namespace Sys2Proof.Machine

@[simp] theorem chans_setChan (blk : Block) (k : Nat) (s : State) :
    (blk.setChan k s).chans = blk.chans.set k s := by
  cases k <;> rfl

@[simp] theorem chans_reset (n : Config.NChannels) :
    (Block.reset n).chans = List.replicate n State.reset := by
  rw [← PNat.natPred_add_one n]
  rfl

/-- The block at reset has as many instances as `N_CHANNELS` says (`00_scope.md` R5). -/
theorem nChannels_reset (n : Config.NChannels) : (Block.reset n).nChannels = n := by
  apply PNat.eq
  show (Block.reset n).chans.length = n
  rw [chans_reset, List.length_replicate]

/-- If a step of a block answers a next block, instance `k` took its own step and no other is touched
(`60_exceptions.md` R331). -/
theorem block_step_next {blk blk' : Block} {k : Nat} (h : blk.step k = .next blk') :
    ∃ s s', blk.chans[k]? = some s ∧ Sys2Proof.Machine.step s = .next s' ∧ blk' = blk.setChan k s' := by
  unfold Block.step at h
  cases hk : blk.chans[k]? with
  | none => rw [hk] at h; cases h
  | some s =>
    rw [hk] at h
    cases hs : Sys2Proof.Machine.step s with
    | next s' => simp only [hs] at h; cases h; exact ⟨s, s', rfl, hs, rfl⟩
    | fault f => cases f
    | refused r => simp only [hs] at h; cases h

/-- A block takes the step its instance takes. -/
theorem block_step_of_step {blk : Block} {k : Nat} {s s' : State} (hk : blk.chans[k]? = some s)
    (hs : Sys2Proof.Machine.step s = .next s') : blk.step k = .next (blk.setChan k s') := by
  unfold Block.step
  rw [hk]
  simp only [hs]

end Sys2Proof.Machine
end

