-- ==== Sys2Proof/Laws/Memory.lean ====
section
/-! SUPPORT. The payload buffer: a read after a write, and the canonical form kept by every write. -/

namespace Sys2Proof.Machine

/-- Reading back: the byte written at its address, every other address as before. -/
theorem Memory.byteAt?_put (m : Memory) (a : Nat) (b : Byte) (x : Nat) :
    (m.put a b).byteAt? x = if x = a then some b else m.byteAt? x := by
  induction m with
  | nil =>
    by_cases h : x = a
    · simp [Memory.put, Memory.byteAt?, h]
    · simp [Memory.put, Memory.byteAt?, h, Ne.symm h]
  | cons cell rest ih =>
    obtain ⟨k, v⟩ := cell
    simp only [Memory.put]
    split
    · by_cases h : x = a
      · simp [Memory.byteAt?, h]
      · simp [Memory.byteAt?, h, Ne.symm h]
    · split
      · rename_i _ hk
        subst hk
        by_cases h : x = a
        · simp [Memory.byteAt?, h]
        · simp [Memory.byteAt?, h, Ne.symm h]
      · rename_i hlt hne
        simp only [Memory.byteAt?, ih]
        by_cases hk : k = x
        · have : x ≠ a := by omega
          simp [hk, this]
        · simp [hk]

/-- The same for `PB[a]` (`00_scope.md` R8). -/
theorem readPb_put (m : Memory) (a : Nat) (b : Byte) (x : Nat) :
    readPb (m.put a b) x = if x = a then b else readPb m x := by
  unfold readPb
  rw [Memory.byteAt?_put]
  split <;> rfl

theorem Memory.put_wfFrom (m : Memory) (lo a : Nat) (b : Byte) (hlo : lo ≤ a) (ha : a < Config.pbSize)
    (h : Memory.wfFrom lo m = true) : Memory.wfFrom lo (m.put a b) = true := by
  induction m generalizing lo with
  | nil => simp [Memory.put, Memory.wfFrom, hlo, ha]
  | cons cell rest ih =>
    obtain ⟨k, v⟩ := cell
    simp only [Memory.wfFrom, Bool.and_eq_true, decide_eq_true_eq] at h
    obtain ⟨⟨hk, hks⟩, hrest⟩ := h
    simp only [Memory.put]
    split
    · rename_i hak
      simp only [Memory.wfFrom, Bool.and_eq_true, decide_eq_true_eq]
      exact ⟨⟨hlo, ha⟩, ⟨hak, hks⟩, hrest⟩
    · split
      · rename_i _ hak
        subst hak
        simp only [Memory.wfFrom, Bool.and_eq_true, decide_eq_true_eq]
        exact ⟨⟨hlo, ha⟩, hrest⟩
      · simp only [Memory.wfFrom, Bool.and_eq_true, decide_eq_true_eq]
        exact ⟨⟨hk, hks⟩, ih (k + 1) (by omega) hrest⟩

/-- A write inside `PB` keeps the canonical form. -/
theorem Memory.put_wf (m : Memory) (a : Nat) (b : Byte) (ha : a < Config.pbSize) (h : m.wf = true) :
    (m.put a b).wf = true :=
  m.put_wfFrom 0 a b (Nat.zero_le a) ha h

/-- `push` keeps the canonical form: it writes inside `PB` or not at all (`20_memory.md` R51). -/
theorem push_keeps_wf (s : State) (v : Byte) (h : s.pb.wf = true) : (s.push v).pb.wf = true := by
  simp only [State.push]
  split
  · rename_i hlt; exact s.pb.put_wf _ v hlt h
  · exact h

/-- No address at 1036 or above is listed in a canonical buffer. -/
theorem Memory.byteAt?_of_wfFrom (m : Memory) (lo a : Nat) (h : Memory.wfFrom lo m = true)
    (ha : a < lo ∨ Config.pbSize ≤ a) : m.byteAt? a = none := by
  induction m generalizing lo with
  | nil => rfl
  | cons cell rest ih =>
    obtain ⟨k, v⟩ := cell
    simp only [Memory.wfFrom, Bool.and_eq_true, decide_eq_true_eq] at h
    obtain ⟨⟨hk, hks⟩, hrest⟩ := h
    have hne : k ≠ a := by omega
    simp only [Memory.byteAt?, hne, if_false]
    exact ih (k + 1) hrest (by omega)

/-- Canonical buffers with the same bytes at every address are the same data. -/
theorem Memory.ext_of_wfFrom (m m' : Memory) (lo : Nat) (h : Memory.wfFrom lo m = true)
    (h' : Memory.wfFrom lo m' = true) (heq : ∀ a, m.byteAt? a = m'.byteAt? a) : m = m' := by
  induction m generalizing lo m' with
  | nil =>
    cases m' with
    | nil => rfl
    | cons cell rest =>
      obtain ⟨k, v⟩ := cell
      have := heq k
      simp [Memory.byteAt?] at this
  | cons cell rest ih =>
    obtain ⟨k, v⟩ := cell
    cases m' with
    | nil =>
      have := heq k
      simp [Memory.byteAt?] at this
    | cons cell' rest' =>
      obtain ⟨k', v'⟩ := cell'
      simp only [Memory.wfFrom, Bool.and_eq_true, decide_eq_true_eq] at h h'
      obtain ⟨⟨hk, hks⟩, hrest⟩ := h
      obtain ⟨⟨hk', hks'⟩, hrest'⟩ := h'
      have none_below := fun (r : Memory) (j a : Nat) (hr : Memory.wfFrom (j + 1) r = true)
        (ha : a ≤ j) => r.byteAt?_of_wfFrom (j + 1) a hr (.inl (by omega))
      have hkk : k = k' := by
        rcases Nat.lt_trichotomy k k' with hlt | he | hgt
        · have := heq k
          simp only [Memory.byteAt?, if_true, Nat.ne_of_gt hlt, if_false,
            none_below rest' k' k hrest' (by omega)] at this
          cases this
        · exact he
        · have := heq k'
          simp only [Memory.byteAt?, if_true, Nat.ne_of_gt hgt, if_false,
            none_below rest k k' hrest (by omega)] at this
          cases this
      subst hkk
      have hv := heq k
      simp only [Memory.byteAt?, if_true, Option.some.injEq] at hv
      subst hv
      congr 1
      refine ih rest' (k + 1) hrest hrest' (fun a => ?_)
      by_cases ha : k = a
      · subst ha
        rw [none_below rest k k hrest (Nat.le_refl k), none_below rest' k k hrest' (Nat.le_refl k)]
      · have := heq a
        simpa only [Memory.byteAt?, ha, if_false] using this

end Sys2Proof.Machine
end

