-- ==== Sys2Proof/Laws/State.lean ====
section
/-! SUPPORT. What each named operation on `State` does to each field, so that no later proof unfolds a
record update. -/

namespace Sys2Proof.Machine

section Push
variable (s : State) (v : Byte)

@[simp] theorem push_fsm : (s.push v).fsm = s.fsm := rfl
@[simp] theorem push_esc : (s.push v).esc = s.esc := rfl
@[simp] theorem push_len : (s.push v).len = lenNext s.len := rfl
@[simp] theorem push_xacc : (s.push v).xacc = s.xacc ^^^ v := rfl
@[simp] theorem push_inputs : (s.push v).inputs = s.inputs := rfl
@[simp] theorem push_authOk : (s.push v).authOk = s.authOk := rfl
@[simp] theorem push_evt : (s.push v).evt = s.evt := rfl
@[simp] theorem push_txo : (s.push v).txo = s.txo := rfl
@[simp] theorem push_enc : (s.push v).enc = s.enc := rfl
@[simp] theorem push_cfg : (s.push v).cfg = s.cfg := rfl

end Push

section Emit
variable (s : State) (o : EvtOut)

@[simp] theorem emit_fsm : (s.emit o).fsm = s.fsm := rfl
@[simp] theorem emit_esc : (s.emit o).esc = s.esc := rfl
@[simp] theorem emit_len : (s.emit o).len = s.len := rfl
@[simp] theorem emit_xacc : (s.emit o).xacc = s.xacc := rfl
@[simp] theorem emit_pb : (s.emit o).pb = s.pb := rfl
@[simp] theorem emit_inputs : (s.emit o).inputs = s.inputs := rfl
@[simp] theorem emit_authOk : (s.emit o).authOk = s.authOk := rfl
@[simp] theorem emit_evt : (s.emit o).evt = s.evt ++ [o] := rfl
@[simp] theorem emit_txo : (s.emit o).txo = s.txo := rfl
@[simp] theorem emit_enc : (s.emit o).enc = s.enc := rfl
@[simp] theorem emit_cfg : (s.emit o).cfg = s.cfg := rfl

@[simp] theorem finishFrame_fsm : (s.finishFrame o).fsm = .hunt := rfl
@[simp] theorem finishFrame_esc : (s.finishFrame o).esc = s.esc := rfl
@[simp] theorem finishFrame_len : (s.finishFrame o).len = s.len := rfl
@[simp] theorem finishFrame_xacc : (s.finishFrame o).xacc = s.xacc := rfl
@[simp] theorem finishFrame_pb : (s.finishFrame o).pb = s.pb := rfl
@[simp] theorem finishFrame_inputs : (s.finishFrame o).inputs = s.inputs := rfl
@[simp] theorem finishFrame_authOk : (s.finishFrame o).authOk = s.authOk := rfl
@[simp] theorem finishFrame_evt : (s.finishFrame o).evt = s.evt ++ [o] := rfl
@[simp] theorem finishFrame_txo : (s.finishFrame o).txo = s.txo := rfl
@[simp] theorem finishFrame_enc : (s.finishFrame o).enc = s.enc := rfl
@[simp] theorem finishFrame_cfg : (s.finishFrame o).cfg = s.cfg := rfl

end Emit

section Transmit
variable (s : State) (frame : List Byte)

@[simp] theorem transmit_fsm : (s.transmit frame).fsm = s.fsm := rfl
@[simp] theorem transmit_esc : (s.transmit frame).esc = s.esc := rfl
@[simp] theorem transmit_len : (s.transmit frame).len = s.len := rfl
@[simp] theorem transmit_xacc : (s.transmit frame).xacc = s.xacc := rfl
@[simp] theorem transmit_pb : (s.transmit frame).pb = s.pb := rfl
@[simp] theorem transmit_inputs : (s.transmit frame).inputs = s.inputs := rfl
@[simp] theorem transmit_authOk : (s.transmit frame).authOk = s.authOk := rfl
@[simp] theorem transmit_evt : (s.transmit frame).evt = s.evt := rfl
@[simp] theorem transmit_txo : (s.transmit frame).txo = s.txo ++ [frame] := rfl
@[simp] theorem transmit_enc : (s.transmit frame).enc = s.enc := rfl
@[simp] theorem transmit_cfg : (s.transmit frame).cfg = s.cfg := rfl

end Transmit

section PutEncoded
variable (s : State) (bs : List Byte)

@[simp] theorem putEncoded_fsm : (s.putEncoded bs).fsm = s.fsm := rfl
@[simp] theorem putEncoded_esc : (s.putEncoded bs).esc = s.esc := rfl
@[simp] theorem putEncoded_len : (s.putEncoded bs).len = s.len := rfl
@[simp] theorem putEncoded_xacc : (s.putEncoded bs).xacc = s.xacc := rfl
@[simp] theorem putEncoded_pb : (s.putEncoded bs).pb = s.pb := rfl
@[simp] theorem putEncoded_inputs : (s.putEncoded bs).inputs = s.inputs := rfl
@[simp] theorem putEncoded_authOk : (s.putEncoded bs).authOk = s.authOk := rfl
@[simp] theorem putEncoded_evt : (s.putEncoded bs).evt = s.evt := rfl
@[simp] theorem putEncoded_txo : (s.putEncoded bs).txo = s.txo := rfl
@[simp] theorem putEncoded_enc : (s.putEncoded bs).enc = s.enc ++ bs := rfl
@[simp] theorem putEncoded_cfg : (s.putEncoded bs).cfg = s.cfg := rfl

end PutEncoded

section ToHunt
variable (s : State)

@[simp] theorem toHunt_fsm : s.toHunt.fsm = .hunt := rfl
@[simp] theorem toHunt_esc : s.toHunt.esc = false := rfl
@[simp] theorem toHunt_len : s.toHunt.len = 0 := rfl
@[simp] theorem toHunt_xacc : s.toHunt.xacc = 0x00 := rfl
@[simp] theorem toHunt_pb : s.toHunt.pb = [] := rfl
@[simp] theorem toHunt_inputs : s.toHunt.inputs = s.inputs := rfl
@[simp] theorem toHunt_authOk : s.toHunt.authOk = s.authOk := rfl
@[simp] theorem toHunt_evt : s.toHunt.evt = s.evt := rfl
@[simp] theorem toHunt_txo : s.toHunt.txo = s.txo := rfl
@[simp] theorem toHunt_enc : s.toHunt.enc = s.enc := rfl
@[simp] theorem toHunt_cfg : s.toHunt.cfg = s.cfg := rfl

end ToHunt

section FlushEsc
variable (s : State)

@[simp] theorem flushEsc_fsm : s.flushEsc.fsm = s.fsm := by unfold State.flushEsc; split <;> rfl
@[simp] theorem flushEsc_esc : s.flushEsc.esc = false := by
  unfold State.flushEsc
  split
  · rfl
  · rename_i h; simpa using h
@[simp] theorem flushEsc_inputs : s.flushEsc.inputs = s.inputs := by
  unfold State.flushEsc; split <;> rfl
@[simp] theorem flushEsc_authOk : s.flushEsc.authOk = s.authOk := by
  unfold State.flushEsc; split <;> rfl
@[simp] theorem flushEsc_evt : s.flushEsc.evt = s.evt := by unfold State.flushEsc; split <;> rfl
@[simp] theorem flushEsc_txo : s.flushEsc.txo = s.txo := by unfold State.flushEsc; split <;> rfl
@[simp] theorem flushEsc_enc : s.flushEsc.enc = s.enc := by unfold State.flushEsc; split <;> rfl
@[simp] theorem flushEsc_cfg : s.flushEsc.cfg = s.cfg := by unfold State.flushEsc; split <;> rfl

/-- With no marker pending nothing is pushed (`41_escape_codec.md` R146). -/
theorem flushEsc_of_clear (h : s.esc = false) : s.flushEsc = s := by
  unfold State.flushEsc; rw [h]; rfl

/-- A pending marker is pushed and the flag cleared (R146). -/
theorem flushEsc_of_set (h : s.esc = true) : s.flushEsc = { s.push 0x7D with esc := false } := by
  unfold State.flushEsc; rw [h]; rfl

end FlushEsc

end Sys2Proof.Machine
end

