-- ==== Sys2Proof/Laws/Payload.lean ====
section
/-! SUPPORT. One lemma per shared operation of the payload path: the counter, one push, folds and lists of
reads. -/

namespace Sys2Proof.Machine

/-- The counter counts up to 2047 and stays there (`10_state.md` R23). -/
theorem lenNext_toNat (n : BitVec 11) : (lenNext n).toNat = min (n.toNat + 1) 2047 := by
  unfold lenNext
  have hn := n.isLt
  by_cases h : n = Config.lenMax
  · subst h; rfl
  · have hne : n.toNat ≠ 2047 := fun hc => h (BitVec.eq_of_toNat_eq hc)
    have h1 : (1 : BitVec 11).toNat = 1 := rfl
    rw [if_neg h, BitVec.toNat_add, h1]
    omega

/-- What one push does to every byte of the buffer (`10_state.md` R30, `20_memory.md` R51). -/
theorem readPb_push (s : State) (v : Byte) (a : Nat) :
    readPb (s.push v).pb a =
      if a = s.len.toNat ∧ a < Config.pbSize then v else readPb s.pb a := by
  simp only [State.push]
  split
  · rename_i hlt
    rw [readPb_put]
    by_cases ha : a = s.len.toNat
    · simp [ha, hlt]
    · simp [ha]
  · rename_i hge
    have : ¬ (a = s.len.toNat ∧ a < Config.pbSize) := by omega
    rw [if_neg this]

/-- A push writes its address, if that is in the buffer, and unwrites none. -/
theorem byteAt?_push (s : State) (v : Byte) (a : Nat) :
    (s.push v).pb.byteAt? a =
      if a = s.len.toNat ∧ a < Config.pbSize then some v else s.pb.byteAt? a := by
  simp only [State.push]
  split
  · rename_i hlt
    rw [Memory.byteAt?_put]
    by_cases ha : a = s.len.toNat
    · simp [ha, hlt]
    · simp [ha]
  · rename_i hge
    have : ¬ (a = s.len.toNat ∧ a < Config.pbSize) := by omega
    rw [if_neg this]

theorem foldl_xor_start (u : List Byte) (x : Byte) : u.foldl (· ^^^ ·) x = x ^^^ xorBytes u := by
  induction u generalizing x with
  | nil => simp [xorBytes]
  | cons b rest ih =>
    simp only [xorBytes, List.foldl_cons]
    rw [ih, ih (0x00 ^^^ b), BitVec.xor_assoc]
    simp

@[simp] theorem xorBytes_nil : xorBytes [] = 0x00 := rfl

/-- The exclusive-or of a longer sequence (`43_checksum.md` R202). -/
theorem xorBytes_append (u v : List Byte) : xorBytes (u ++ v) = xorBytes u ^^^ xorBytes v := by
  unfold xorBytes
  rw [List.foldl_append]
  exact foldl_xor_start v _

theorem xorBytes_singleton (b : Byte) : xorBytes [b] = b := by simp [xorBytes]

theorem xorBytes_cons (b : Byte) (u : List Byte) : xorBytes (b :: u) = b ^^^ xorBytes u := by
  rw [← List.singleton_append, xorBytes_append, xorBytes_singleton]

/-- `a ^ b = 0` exactly when `a = b` (`43_checksum.md` R201). -/
theorem xor_eq_zero (a b : Byte) : a ^^^ b = 0 ↔ a = b := by
  constructor
  · intro h
    have hx : (a ^^^ b) ^^^ b = 0 ^^^ b := by rw [h]
    simpa [BitVec.xor_assoc] using hx
  · rintro rfl; simp

@[simp] theorem bytesAt_length (rd : Nat → Byte) (a n : Nat) : (bytesAt rd a n).length = n := by
  simp [bytesAt]

theorem bytesAt_getElem? (rd : Nat → Byte) (a n i : Nat) (h : i < n) :
    (bytesAt rd a n)[i]? = some (rd (a + i)) := by
  simp [bytesAt, h]

theorem bytesAt_succ (rd : Nat → Byte) (a n : Nat) :
    bytesAt rd a (n + 1) = bytesAt rd a n ++ [rd (a + n)] := by
  simp [bytesAt, List.range_succ]

/-- A range of reads depends only on the bytes it reads. -/
theorem bytesAt_congr {rd rd' : Nat → Byte} {a n : Nat} (h : ∀ i, i < n → rd (a + i) = rd' (a + i)) :
    bytesAt rd a n = bytesAt rd' a n := by
  unfold bytesAt
  exact List.map_congr_left (fun i hi => h i (List.mem_range.mp hi))

/-- Two bytes read as one number, the first the more significant (`20_memory.md` R55). -/
theorem memRead_two (rd : Nat → Byte) (a : Nat) :
    memRead rd a 2 = (rd a).toNat * 256 + (rd (a + 1)).toNat := by
  simp [memRead, List.range_succ]

/-- The header depends only on payload bytes 0 to 11 (`44_header.md` R220). -/
theorem parseHeader_congr {rd rd' : Nat → Byte} (h : ∀ a, a < 12 → rd a = rd' a) :
    parseHeader rd = parseHeader rd' := by
  unfold parseHeader termIdAt
  simp only [memRead_two, h 0 (by omega), h (0 + 1) (by omega), h 2 (by omega), h (2 + 1) (by omega),
    h 4 (by omega), h 5 (by omega), h 6 (by omega), h 7 (by omega), h 8 (by omega), h 9 (by omega),
    h 10 (by omega), h (10 + 1) (by omega)]

end Sys2Proof.Machine
end

