-- ==== Sys2Proof/Laws/Codec.lean ====
section
/-! SUPPORT. 16-bit fields as bytes, the message table, and what the two sequence functions of the escape
codec do at the head of a sequence. -/

namespace Sys2Proof.Machine

/-- A field read back from its two bytes (`20_memory.md` R55). -/
theorem be16OfBytes_bytesOfWord (v : Word16) : be16OfBytes (v.extractLsb' 8 8) (v.extractLsb' 0 8) = v := by
  apply BitVec.eq_of_toNat_eq
  have := v.isLt
  simp [be16OfBytes, BitVec.extractLsb'_toNat, Nat.shiftRight_eq_div_pow]
  omega

/-- The two bytes of a field made of two bytes (R55). -/
theorem bytesOfWord_be16OfBytes (a b : Byte) : bytesOfWord (be16OfBytes a b) = [a, b] := by
  have ha := a.isLt
  have hb := b.isLt
  simp only [bytesOfWord, be16OfBytes, List.cons.injEq, and_true]
  constructor <;> apply BitVec.eq_of_toNat_eq <;>
    simp [BitVec.extractLsb'_toNat, Nat.shiftRight_eq_div_pow] <;> omega

@[simp] theorem bytesOfWord_length (v : Word16) : (bytesOfWord v).length = 2 := rfl

@[simp] theorem frameContent_length (m p : Word16) (t : TermId) (s : Word16) (b : List Byte) :
    (frameContent m p t s b).length = b.length + 12 := by
  simp [frameContent, bytesOfWord, TermId.bytes]

/-- The encoder gives one or two bytes, none of them the delimiter. -/
theorem encByte_shape (b : Byte) :
    (0x7E : Byte) ∉ encByte b ∧ 1 ≤ (encByte b).length ∧ (encByte b).length ≤ 2 := by
  unfold encByte
  split
  · decide
  · split
    · decide
    · rename_i h _
      exact ⟨by simp only [List.mem_singleton]; exact fun hh => h hh.symm, by simp, by simp⟩

theorem escape_cons (b : Byte) (l : List Byte) : escape (b :: l) = encByte b ++ escape l := rfl

/-- A byte that is no marker is copied. -/
theorem unescape_cons (c : Byte) (l : List Byte) (h : c ≠ 0x7D) : unescape (c :: l) = c :: unescape l := by
  cases l with
  | nil => rfl
  | cons d r => rw [unescape, if_neg (fun hh => h hh.1), if_neg (fun hh => h hh.1)]

theorem unescape_delim (l : List Byte) : unescape (0x7D :: 0x02 :: l) = 0x7E :: unescape l := by
  rw [unescape, if_pos ⟨rfl, rfl⟩]

theorem unescape_marker (l : List Byte) : unescape (0x7D :: 0x01 :: l) = 0x7D :: unescape l := by
  rw [unescape, if_neg (by decide), if_pos ⟨rfl, rfl⟩]

/-- A marker that opens no escape is copied alone, and the byte after it is examined afresh
(`41_escape_codec.md` R140). -/
theorem unescape_lone (b : Byte) (l : List Byte) (h1 : b ≠ 0x01) (h2 : b ≠ 0x02) :
    unescape (0x7D :: b :: l) = 0x7D :: unescape (b :: l) := by
  rw [unescape, if_neg (fun h => h2 h.2), if_neg (fun h => h1 h.2)]

/-- `Unescape` reads back what the encoder gives for one byte, whatever follows. -/
theorem unescape_encByte (b : Byte) (l : List Byte) : unescape (encByte b ++ l) = b :: unescape l := by
  unfold encByte
  split
  · rename_i h
    subst h
    exact unescape_delim l
  · split
    · rename_i h
      subst h
      exact unescape_marker l
    · rename_i h
      exact unescape_cons b l h

/-- If the builder answers bytes, they are the frame of R292. -/
theorem buildFrame_ok {r : TxRequest} {bytes : List Byte} (h : buildFrame r = .ok bytes) :
    r.body.length ≤ Config.bodyMax ∧
    bytes = [Config.delim] ++
      escape (framePayload r.msgId (BitVec.ofNat 16 r.body.length) r.tid6 r.serial r.body) ++
      [Config.delim] := by
  unfold buildFrame at h
  split at h
  · rename_i hl
    cases h
    exact ⟨hl, rfl⟩
  · cases h

end Sys2Proof.Machine
end

