-- ==== Sys2Proof/Laws/Completion.lean ====
section
/-! SUPPORT. The dispatch operations and the completion function: what each shared part can answer, and what
it depends on. -/

namespace Sys2Proof.Machine

/-- The minimum-body check (`45_dispatch.md` R258) has two outcomes. -/
theorem withMinBody_of_lt {m : Nat} {f : Frame} {e : Event} (h : f.body.length < m) :
    withMinBody m f e = raiseDiscard .decodeFail f.n (some f.hdr) := if_pos h

theorem withMinBody_of_le {m : Nat} {f : Frame} {e : Event} (h : m ≤ f.body.length) :
    withMinBody m f e = .event e := if_neg (by omega)

/-- A body under the operation's minimum is `Discard(DECODE_FAIL)` with the header (R258). -/
theorem dispatchOut_of_short (cfg : Config.Params) (op : MsgOp) (f : Frame)
    (h : f.body.length < minBody cfg op) :
    dispatchOut cfg op f = raiseDiscard .decodeFail f.n (some f.hdr) := by
  cases op <;> first | exact absurd h (Nat.not_lt_zero _) | exact withMinBody_of_lt h

/-- Any other body is an event that carries the header and the body (R250, R251). -/
theorem dispatchOut_of_long (cfg : Config.Params) (op : MsgOp) (f : Frame)
    (h : minBody cfg op ≤ f.body.length) :
    ∃ e, dispatchOut cfg op f = .event e ∧ e.hdr = f.hdr ∧ e.body = f.body := by
  cases op <;> exact ⟨_, withMinBody_of_le h, rfl, rfl⟩

/-- The meaning of the row a dispatch operation is (log 10). -/
theorem exec_instrOfMsgOp (op : MsgOp) (s : State) :
    exec (instrOfMsgOp op) s = .next (s.emit (dispatchOut s.cfg op s.frame)) := by
  cases op <;> rfl

/-- `Complete` reads only the bytes that have been pushed (`10_state.md` R25, `20_memory.md` R52). -/
theorem complete_congr {cfg : Config.Params} {rd rd' : Nat → Byte} {n : BitVec 11} {x : Byte} {a : Bool}
    (h : ∀ i, i < n.toNat → i < Config.pbSize → rd i = rd' i) :
    complete cfg rd n x a = complete cfg rd' n x a := by
  have hpb : Config.pbSize = 1036 := rfl
  have hhd : Config.hdrLen = 12 := rfl
  unfold complete
  split
  · rfl
  · split
    · rfl
    · split
      · rfl
      · rename_i h12
        have hhdr : parseHeader rd = parseHeader rd' :=
          parseHeader_congr (fun i hi => h i (by omega) (by omega))
        simp only []
        rw [hhdr]
        split
        · rfl
        · split
          · rfl
          · have := (parseHeader rd').bodyLen.isLt
            have hb : bytesAt rd Config.hdrLen (n.toNat - 13) = bytesAt rd' Config.hdrLen (n.toNat - 13) :=
              bytesAt_congr (fun i hi => h _ (by omega) (by omega))
            rw [hb]

end Sys2Proof.Machine
end

