-- ==== Sys2Proof/Laws/PerInstr.lean ====
section
/-! SUPPORT. A statement about every operation as syntax, one lemma per constructor: its bytes are as many as
the rows of its group have. -/

namespace Sys2Proof.Laws

/-- Bytes of a row: one for a byte row (`30_encoding.md` R95, R96), two for a `messageId` (R97), none for an
event. -/
def rowWidth : Group → Nat
  | .hunt | .inframe _ | .txByte => 1
  | .closeEvent | .resetEvent => 0
  | .msgId => 2

/-- The encoding of the operation has the width of its group's rows. -/
def EncodeShape.Statement (i : Instr) : Prop := (encode i).2.length = rowWidth (encode i).1

theorem EncodeShape.skip (b : Byte) : EncodeShape.Statement (.skip b) := rfl
theorem EncodeShape.sof : EncodeShape.Statement .sof := rfl
theorem EncodeShape.data (b : Byte) : EncodeShape.Statement (.data b) := rfl
theorem EncodeShape.esc : EncodeShape.Statement .esc := rfl
theorem EncodeShape.esc02 : EncodeShape.Statement .esc02 := rfl
theorem EncodeShape.esc01 : EncodeShape.Statement .esc01 := rfl
theorem EncodeShape.esc7d : EncodeShape.Statement .esc7d := rfl
theorem EncodeShape.escx (b : Byte) : EncodeShape.Statement (.escx b) := rfl
theorem EncodeShape.eof : EncodeShape.Statement .eof := rfl
theorem EncodeShape.close : EncodeShape.Statement .close := rfl
theorem EncodeShape.reset : EncodeShape.Statement .reset := rfl
theorem EncodeShape.enc7e : EncodeShape.Statement .enc7e := rfl
theorem EncodeShape.enc7d : EncodeShape.Statement .enc7d := rfl
theorem EncodeShape.enclit (b : Byte) : EncodeShape.Statement (.enclit b) := rfl
theorem EncodeShape.termAck : EncodeShape.Statement .termAck := rfl
theorem EncodeShape.heartbeat : EncodeShape.Statement .heartbeat := rfl
theorem EncodeShape.register : EncodeShape.Statement .register := rfl
theorem EncodeShape.auth : EncodeShape.Statement .auth := rfl
theorem EncodeShape.location : EncodeShape.Statement .location := rfl
theorem EncodeShape.text : EncodeShape.Statement .text := rfl
theorem EncodeShape.ctrlResp : EncodeShape.Statement .ctrlResp := rfl
theorem EncodeShape.passthru : EncodeShape.Statement .passthru := rfl
theorem EncodeShape.timesync : EncodeShape.Statement .timesync := rfl
theorem EncodeShape.unrecognized (id : Word16) : EncodeShape.Statement (.unrecognized id) := rfl

end Sys2Proof.Laws
end

