-- ==== Sys2Proof/Laws/Pushed.lean ====
section
/-! SUPPORT. `State.Pushed`, the relation the statements use for a number of pushes: one push, pushes one
after the other, and the pending marker at the end delimiter. -/

namespace Sys2Proof.Machine

theorem len_le (s : State) : s.len.toNat ≤ 2047 := by
  have := s.len.isLt
  omega

/-- Nothing pushed. -/
theorem pushed_nil (s t : State) (hl : t.len = s.len) (hx : t.xacc = s.xacc) (hp : t.pb = s.pb) :
    s.Pushed t [] := by
  refine ⟨?_, ?_, fun a => ?_⟩
  · have := len_le s
    rw [hl, List.length_nil]
    omega
  · simp [hx]
  · rw [hp, if_neg]
    simp only [List.length_nil]
    omega

/-- One push (`10_state.md` R30). -/
theorem pushed_push (s : State) (v : Byte) : s.Pushed (s.push v) [v] := by
  refine ⟨?_, ?_, fun a => ?_⟩
  · simp [lenNext_toNat]
  · simp [xorBytes_singleton]
  · rw [readPb_push]
    by_cases h : a = s.len.toNat ∧ a < Config.pbSize
    · obtain ⟨rfl, h'⟩ := h
      simp [h']
    · rw [if_neg h, if_neg]
      simp only [List.length_singleton]
      omega

/-- Pushes one after the other. -/
theorem State.Pushed.trans {s t u : State} {vs ws : List Byte} (h : s.Pushed t vs) (h' : t.Pushed u ws) :
    s.Pushed u (vs ++ ws) := by
  obtain ⟨a1, a2, a3⟩ := h
  obtain ⟨b1, b2, b3⟩ := h'
  have hs := len_le s
  have hpb : Config.pbSize = 1036 := rfl
  refine ⟨?_, ?_, fun a => ?_⟩
  · rw [List.length_append]
    omega
  · rw [b2, a2, xorBytes_append, BitVec.xor_assoc]
  · rw [b3, a3, List.length_append]
    by_cases h1 : a < 1036
    · by_cases h2 : s.len.toNat ≤ a
      · by_cases h3 : a < s.len.toNat + vs.length
        · rw [if_neg (by omega), if_pos (by omega), if_pos (by omega),
            List.getD_append _ _ _ _ (by omega)]
        · by_cases h4 : a < s.len.toNat + (vs.length + ws.length)
          · rw [if_pos (by omega), if_pos (by omega), List.getD_append_right _ _ _ _ (by omega)]
            congr 1
            omega
          · rw [if_neg (by omega), if_neg (by omega), if_neg (by omega)]
      · rw [if_neg (by omega), if_neg (by omega), if_neg (by omega)]
    · rw [if_neg (by omega), if_neg (by omega), if_neg (by omega)]

/-- The relation reads only `len`, `xacc` and `PB` of the later state. -/
theorem State.Pushed.of_eq {s t u : State} {vs : List Byte} (h : s.Pushed t vs) (hl : u.len = t.len)
    (hx : u.xacc = t.xacc) (hp : u.pb = t.pb) : s.Pushed u vs := by
  unfold State.Pushed at *
  rw [hl, hx, hp]
  exact h

/-- The pending marker, if there is one, is pushed (`41_escape_codec.md` R146). -/
theorem pushed_flushEsc (s : State) : s.Pushed s.flushEsc (if s.esc = true then [0x7D] else []) := by
  cases h : s.esc with
  | false =>
    rw [flushEsc_of_clear s h]
    exact pushed_nil s s rfl rfl rfl
  | true =>
    rw [flushEsc_of_set s h]
    exact pushed_push s 0x7D

end Sys2Proof.Machine
end

