-- ==== Sys2Proof/Laws/Step.lean ====
section
/-! SUPPORT. What one step can do, said once: one lemma per input and, for the receive path, one case per
operation. -/

namespace Sys2Proof.Machine

/-- The state in which the operation of an event at RX runs: the event is taken and its AUTH bit stands on
the port. -/
def State.took (s : State) (rest : List Input) (a : Bool) : State :=
  { s with inputs := rest, authOk := a }

section Took
variable (s : State) (rest : List Input) (a : Bool)

@[simp] theorem took_fsm : (s.took rest a).fsm = s.fsm := rfl
@[simp] theorem took_esc : (s.took rest a).esc = s.esc := rfl
@[simp] theorem took_len : (s.took rest a).len = s.len := rfl
@[simp] theorem took_xacc : (s.took rest a).xacc = s.xacc := rfl
@[simp] theorem took_pb : (s.took rest a).pb = s.pb := rfl
@[simp] theorem took_inputs : (s.took rest a).inputs = rest := rfl
@[simp] theorem took_authOk : (s.took rest a).authOk = a := rfl
@[simp] theorem took_evt : (s.took rest a).evt = s.evt := rfl
@[simp] theorem took_txo : (s.took rest a).txo = s.txo := rfl
@[simp] theorem took_enc : (s.took rest a).enc = s.enc := rfl
@[simp] theorem took_cfg : (s.took rest a).cfg = s.cfg := rfl

end Took

theorem step_idle {s : State} (h : s.inputs = []) : step s = .next s := by
  unfold step; rw [h]

theorem step_rx {s : State} {ev : RxEvent} {a : Bool} {rest : List Input}
    (h : s.inputs = .rx ev a :: rest) : step s = exec (s.rxInstr ev) (s.took rest a) := by
  unfold step; rw [h]; rfl

theorem step_txByte {s : State} {b : Byte} {rest : List Input} (h : s.inputs = .txByte b :: rest) :
    step s = exec (decodeTx b) { s with inputs := rest } := by
  unfold step; rw [h]

theorem step_txFrame {s : State} {r : TxRequest} {rest : List Input}
    (h : s.inputs = .txFrame r :: rest) : step s = execTxFrame r { s with inputs := rest } := by
  unfold step; rw [h]

/-- The transmit byte operation puts out what the encoder gives (`41_escape_codec.md` R151 to R153). -/
theorem exec_decodeTx (b : Byte) (s : State) : exec (decodeTx b) s = .next (s.putEncoded (encByte b)) := by
  unfold decodeTx encByte
  split
  · rfl
  · split <;> rfl

/-- What taking one event at RX does, by operation (`30_encoding.md` R95). -/
inductive RxEffect (s : State) : RxEvent → State → Prop where
  | skip {b} : s.fsm = .hunt → b ≠ Config.delim → RxEffect s (.byte b) s
  | sof : s.fsm = .hunt →
      RxEffect s (.byte Config.delim) { s with fsm := .inframe, esc := false, len := 0, xacc := 0x00 }
  | data {b} : s.fsm = .inframe → s.esc = false → b ≠ Config.delim → b ≠ Config.escMark →
      RxEffect s (.byte b) (s.push b)
  | esc : s.fsm = .inframe → s.esc = false →
      RxEffect s (.byte Config.escMark) { s with esc := true }
  | esc02 : s.fsm = .inframe → s.esc = true →
      RxEffect s (.byte Config.escDelim) { s.push Config.delim with esc := false }
  | esc01 : s.fsm = .inframe → s.esc = true →
      RxEffect s (.byte Config.escSelf) { s.push Config.escMark with esc := false }
  | esc7d : s.fsm = .inframe → s.esc = true →
      RxEffect s (.byte Config.escMark) (s.push Config.escMark)
  | escx {b} : s.fsm = .inframe → s.esc = true → b ≠ Config.delim → b ≠ Config.escDelim →
      b ≠ Config.escSelf → b ≠ Config.escMark →
      RxEffect s (.byte b) { (s.push Config.escMark).push b with esc := false }
  | eof : s.fsm = .inframe →
      RxEffect s (.byte Config.delim) (s.flushEsc.finishFrame s.flushEsc.verdict)
  | close : RxEffect s .close s.toHunt
  | reset : RxEffect s .reset s.toHunt

/-- Every event at RX, in every state, has exactly such an effect (`60_exceptions.md` R322). -/
theorem exec_rx (s : State) (ev : RxEvent) :
    ∃ t, exec (s.rxInstr ev) s = .next t ∧ RxEffect s ev t := by
  cases ev with
  | close => exact ⟨_, rfl, .close⟩
  | reset => exact ⟨_, rfl, .reset⟩
  | byte b =>
    cases hf : s.fsm with
    | hunt =>
      simp only [State.rxInstr, decodeRx, hf, decodeHunt]
      split
      · rename_i hb; subst hb; exact ⟨_, rfl, .sof hf⟩
      · rename_i hb; exact ⟨_, rfl, .skip hf hb⟩
    | inframe =>
      simp only [State.rxInstr, decodeRx, hf, decodeInframe]
      split
      · rename_i hb; subst hb; exact ⟨_, rfl, .eof hf⟩
      · rename_i hd
        cases he : s.esc with
        | false =>
          simp only [Bool.false_eq_true, if_false]
          split
          · rename_i hb; subst hb; exact ⟨_, rfl, .esc hf he⟩
          · rename_i hb; exact ⟨_, rfl, .data hf he hd hb⟩
        | true =>
          simp only [if_true]
          split
          · rename_i hb; subst hb; exact ⟨_, rfl, .esc02 hf he⟩
          · split
            · rename_i hb; subst hb; exact ⟨_, rfl, .esc01 hf he⟩
            · split
              · rename_i hb; subst hb; exact ⟨_, rfl, .esc7d hf he⟩
              · rename_i h1 h2 h3; exact ⟨_, rfl, .escx hf he hd h1 h2 h3⟩

/-- A step with an event at RX: it answers a next state, and does what the operation does. -/
theorem step_rx_effect {s : State} {ev : RxEvent} {a : Bool} {rest : List Input}
    (h : s.inputs = .rx ev a :: rest) : ∃ t, step s = .next t ∧ RxEffect (s.took rest a) ev t := by
  rw [step_rx h]
  exact exec_rx (s.took rest a) ev

/-- What a step that answers a next state did. -/
inductive StepEffect (s t : State) : Prop where
  | idle : s.inputs = [] → t = s → StepEffect s t
  | rx {ev a rest} : s.inputs = .rx ev a :: rest → RxEffect (s.took rest a) ev t → StepEffect s t
  | txByte {b rest} : s.inputs = .txByte b :: rest →
      t = State.putEncoded { s with inputs := rest } (encByte b) → StepEffect s t
  | txFrame {r rest bytes} : s.inputs = .txFrame r :: rest → buildFrame r = .ok bytes →
      t = State.transmit { s with inputs := rest } bytes → StepEffect s t

/-- If a step answers a next state, then it did one of these. -/
theorem step_cases {s t : State} (h : step s = .next t) : StepEffect s t := by
  cases hi : s.inputs with
  | nil => rw [step_idle hi] at h; cases h; exact .idle hi rfl
  | cons i rest =>
    cases i with
    | rx ev a =>
      obtain ⟨t', ht, he⟩ := step_rx_effect hi
      rw [ht] at h; cases h
      exact .rx hi he
    | txByte b =>
      rw [step_txByte hi, exec_decodeTx] at h; cases h
      exact .txByte hi rfl
    | txFrame r =>
      rw [step_txFrame hi] at h
      unfold execTxFrame at h
      cases hb : buildFrame r with
      | ok bytes => rw [hb] at h; cases h; exact .txFrame hi hb rfl
      | error e => rw [hb] at h; cases h

/-- Nothing faults: the type of faults is empty (`60_exceptions.md` R322). -/
theorem step_never_faults (s : State) (f : Fault) : step s ≠ .fault f := nomatch f

end Sys2Proof.Machine
end

