-- ==== Sys2Proof/Laws/Run.lean ====
section
/-! SUPPORT. Runs of `core`, taken apart at their first step or between two parts. -/

namespace Sys2Proof.Machine

theorem core_run_zero (s : State) : Sys2Proof.core.run 0 s = .next s := rfl

theorem run_of_step (M : Host.Core) {s s' : M.State} (k : Nat) (h : M.step s = .next s') :
    M.run (k + 1) s = M.run k s' := by
  simp only [Host.Core.run, h]

theorem run_of_refused (M : Host.Core) {s : M.State} {r : M.Refusal} (k : Nat)
    (h : M.step s = .refused r) : M.run (k + 1) s = .refused r := by
  simp only [Host.Core.run, h]

/-- A run whose first step answers a next state. -/
theorem core_run_succ {s s' : State} (k : Nat) (h : step s = .next s') :
    Sys2Proof.core.run (k + 1) s = Sys2Proof.core.run k s' :=
  run_of_step Sys2Proof.core k h

/-- A run that answers a next state has a first step that does. -/
theorem core_run_succ_inv {s t : State} {k : Nat} (h : Sys2Proof.core.run (k + 1) s = .next t) :
    ∃ u : State, step s = .next u ∧ Sys2Proof.core.run k u = .next t := by
  cases hx : step s with
  | next u => exact ⟨u, rfl, by rw [core_run_succ k hx] at h; exact h⟩
  | fault f => cases f
  | refused r => rw [run_of_refused Sys2Proof.core k hx] at h; cases h

/-- A run in two parts. -/
theorem core_run_append (j k : Nat) {s t : State} (h : Sys2Proof.core.run j s = .next t) :
    Sys2Proof.core.run (j + k) s = Sys2Proof.core.run k t := by
  induction j generalizing s with
  | zero =>
    cases h
    rw [Nat.zero_add]
  | succ j ih =>
    obtain ⟨u, hu, hr⟩ := core_run_succ_inv h
    rw [show j + 1 + k = j + k + 1 by omega, core_run_succ _ hu]
    exact ih hr

end Sys2Proof.Machine
end

