-- ==== Sys2Proof/Tests/Slice0.lean ====
section
/-! SUPPORT. The model's own checks. Expected values come from the tables and worked examples of `spec/`
(`30_encoding.md` R95 to R97, the operations' own rules, `95_test_vectors.md`), or are worked out from them
by hand. -/

namespace Sys2Proof.Tests

open Sys2Proof.Machine

/-! ### Ill-formed terms, one per check of `Instr.wf` -/

theorem test_wf_refuses_skip_of_delim : (Instr.skip 0x7E).wf = false := by decide
theorem test_wf_refuses_data_of_delim : (Instr.data 0x7E).wf = false := by decide
theorem test_wf_refuses_data_of_marker : (Instr.data 0x7D).wf = false := by decide
theorem test_wf_refuses_escx_of_delim : (Instr.escx 0x7E).wf = false := by decide
theorem test_wf_refuses_escx_of_marker : (Instr.escx 0x7D).wf = false := by decide
theorem test_wf_refuses_escx_of_02 : (Instr.escx 0x02).wf = false := by decide
theorem test_wf_refuses_escx_of_01 : (Instr.escx 0x01).wf = false := by decide
theorem test_wf_refuses_enclit_of_delim : (Instr.enclit 0x7E).wf = false := by decide
theorem test_wf_refuses_enclit_of_marker : (Instr.enclit 0x7D).wf = false := by decide
theorem test_wf_refuses_unrecognized_of_known : (Instr.unrecognized 0x0F01).wf = false := by decide

/-! ### Every constructor's word, written out from R95, R96, R97 -/

theorem test_decode_hunt_rows :
    decode .hunt [0b01111110] = .ok (.sof, []) ∧ decode .hunt [0b00010000] = .ok (.skip 0x10, []) := by
  decide

theorem test_decode_literal_rows :
    decode (.inframe false) [0b01000001] = .ok (.data 0x41, []) ∧
    decode (.inframe false) [0b01111101] = .ok (.esc, []) ∧
    decode (.inframe false) [0b01111110] = .ok (.eof, []) := by decide

theorem test_decode_pending_rows :
    decode (.inframe true) [0b00000010] = .ok (.esc02, []) ∧
    decode (.inframe true) [0b00000001] = .ok (.esc01, []) ∧
    decode (.inframe true) [0b01111101] = .ok (.esc7d, []) ∧
    decode (.inframe true) [0b00000011] = .ok (.escx 0x03, []) ∧
    decode (.inframe true) [0b01111110] = .ok (.eof, []) := by decide

theorem test_decode_event_rows :
    decode .closeEvent [] = .ok (.close, []) ∧ decode .resetEvent [] = .ok (.reset, []) := by decide

theorem test_decode_encoder_rows :
    decode .txByte [0b01111110] = .ok (.enc7e, []) ∧ decode .txByte [0b01111101] = .ok (.enc7d, []) ∧
    decode .txByte [0b00000001] = .ok (.enclit 0x01, []) := by decide

theorem test_decode_message_rows :
    decode .msgId [0b00000000, 0b00000001] = .ok (.termAck, []) ∧
    decode .msgId [0b00000000, 0b00000010] = .ok (.heartbeat, []) ∧
    decode .msgId [0b00000001, 0b00000000] = .ok (.register, []) ∧
    decode .msgId [0b00000001, 0b00000010] = .ok (.auth, []) ∧
    decode .msgId [0b00000010, 0b00000000] = .ok (.location, []) ∧
    decode .msgId [0b00000011, 0b00000000] = .ok (.text, []) ∧
    decode .msgId [0b00000101, 0b00000000] = .ok (.ctrlResp, []) ∧
    decode .msgId [0b00001001, 0b00000000] = .ok (.passthru, []) ∧
    decode .msgId [0b00001111, 0b00000001] = .ok (.timesync, []) ∧
    decode .msgId [0b00000111, 0b00000100] = .ok (.unrecognized 0x0704, []) := by decide

/-- Too few bytes for the group's rows are refused by name. -/
theorem test_decode_short : decode .hunt [] = .error .noByte ∧ decode .msgId [0x01] = .error .shortMsgId := by
  decide

/-! ### One step -/

/-- A unit in a frame. -/
def inframe (esc : Bool) (len : BitVec 11) (xacc : Byte) (pb : Memory) : State :=
  { State.reset with fsm := .inframe, esc := esc, len := len, xacc := xacc, pb := pb }

/-- A unit in a frame, no marker pending, whose payload so far is `payload`; `xacc` is what the spec's table
gives for it. -/
def held (payload : List Byte) (xacc : Byte) : State :=
  inframe false (BitVec.ofNat 11 payload.length) xacc (payload.zipIdx.map (fun p => (p.2, p.1)))

/-- The next state of a step that takes the input, if it answers one. -/
def after (s : State) (i : Input) : Option State :=
  match step (s.withInput i) with
  | .next t => some t
  | .fault _ => none
  | .refused _ => none

/-- A byte at RX with AUTH 0. -/
def rxByte (b : Byte) : Input := .rx (.byte b) false

/-- The one value a completed frame put on EVT, with the control registers after it. -/
def verdictOf (s : State) (auth : Bool) : Option (Fsm × Bool × List EvtOut) :=
  (after s (.rx (.byte 0x7E) auth)).map (fun t => (t.fsm, t.esc, t.evt))

/-- R172: `10 20 30` in HUNT changes nothing (V3). -/
theorem test_skip : after State.reset (rxByte 0x10) = some State.reset := by decide

/-- R173, on a unit that holds a stale payload. -/
theorem test_sof :
    (after { inframe false 7 0x55 [(0, 0x41)] with fsm := .hunt } (rxByte 0x7E)).map
      (fun t => (t.fsm, t.esc, t.len, t.xacc)) = some (.inframe, false, 0, 0) := by decide

/-- P1 step 9: after `00 02 00 00 00 00 00`, byte 01 gives len 8 and xacc 03. -/
theorem test_data :
    (after (held [0x00, 0x02, 0x00, 0x00, 0x00, 0x00, 0x00] 0x02) (rxByte 0x01)).map
      (fun t => (t.len, t.xacc, t.pb.byteAt? 7, t.esc)) = some (8, 0x03, some 0x01, false) := by decide

/-- P6: at `len` 1036 a byte is counted and folded and not stored; R23: `len` stays 2047. -/
theorem test_data_beyond_buffer :
    (after (inframe false 1036 0x10 []) (rxByte 0x01)).map (fun t => (t.len, t.xacc, t.pb)) =
      some (1037, 0x11, []) ∧
    (after (inframe false 2047 0x10 []) (rxByte 0x01)).map (fun t => (t.len, t.xacc, t.pb)) =
      some (2047, 0x11, []) := by decide

/-- R141; P2 step 16: len 11 and xacc AD stay. -/
theorem test_esc :
    (after (inframe false 11 0xAD []) (rxByte 0x7D)).map (fun t => (t.fsm, t.esc, t.len, t.xacc)) =
      some (.inframe, true, 11, 0xAD) := by decide

/-- The worked example of R142. -/
theorem test_esc02 :
    (after (inframe true 3 0x10 []) (rxByte 0x02)).map (fun t => (t.esc, t.len, t.xacc, t.pb)) =
      some (false, 4, 0x6E, [(3, 0x7E)]) := by decide

/-- The worked example of R143. -/
theorem test_esc01 :
    (after (inframe true 3 0x10 []) (rxByte 0x01)).map (fun t => (t.esc, t.len, t.xacc, t.pb)) =
      some (false, 4, 0x6D, [(3, 0x7D)]) := by decide

/-- R144: the first marker is pushed, the second is pending. -/
theorem test_esc7d :
    (after (inframe true 0 0x00 []) (rxByte 0x7D)).map (fun t => (t.esc, t.len, t.xacc, t.pb)) =
      some (true, 1, 0x7D, [(0, 0x7D)]) := by decide

/-- The worked example of R145. -/
theorem test_escx :
    (after (inframe true 0 0x00 []) (rxByte 0x41)).map (fun t => (t.esc, t.len, t.xacc, t.pb)) =
      some (false, 2, 0x3C, [(0, 0x7D), (1, 0x41)]) := by decide

/-- R145's corner: at `len` 1035 the marker is stored and the byte is not. -/
theorem test_escx_at_end :
    (after (inframe true 1035 0x00 []) (rxByte 0x03)).map (fun t => (t.len, t.xacc, t.pb)) =
      some (1037, 0x7E, [(1035, 0x7D)]) := by decide

/-- V17: content `41 7D`; the pending marker is pushed and taken as checksum (R146). -/
theorem test_eof_pending_marker :
    verdictOf (inframe true 1 0x41 [(0, 0x41)]) false = some (.hunt, false,
      [.discard { reason := .checksum, n := 2, ovf := false, hdr := none }]) := by decide

/-- V18, at the end delimiter of 1100 zero bytes: header all zero, LEN_MISMATCH, `ovf`. -/
theorem test_eof_overlong :
    ((after (inframe false 1100 0x00 ((List.replicate 12 (0x00 : Byte)).zipIdx.map (fun p => (p.2, p.1))))
      (rxByte 0x7E)).map (fun t => t.evt.map (fun o => match o with
        | .discard d => (d.reason, d.n, d.ovf, d.hdr.isSome)
        | .event _ => (.tooShort, 0, false, false)))) = some [(.lenMismatch, 1100, true, true)] := by decide

/-- P4 step 24: Close in mid-frame. -/
theorem test_close :
    (after (inframe true 7 0x02 [(0, 0x00)]) (.rx .close false)).map
      (fun t => (t.fsm, t.esc, t.len, t.xacc, t.evt)) = some (.hunt, false, 0, 0x00, []) := by decide

/-- R184: the state of R32. -/
theorem test_reset : after (inframe true 7 0x02 [(0, 0x00)]) (.rx .reset false) = some State.reset := by decide

/-- Worked examples of R151, R152, R153. -/
theorem test_enc7e : (after State.reset (.txByte 0x7E)).map (fun t => (t.enc, t.txo)) =
    some ([0x7D, 0x02], []) := by decide
theorem test_enc7d : (after State.reset (.txByte 0x7D)).map (fun t => (t.enc, t.txo)) =
    some ([0x7D, 0x01], []) := by decide
theorem test_enclit : (after State.reset (.txByte 0x02)).map (fun t => (t.enc, t.txo)) =
    some ([0x02], []) := by decide

/-! ### Completed frames: the vectors of 2.4 to 2.6 at their end delimiter -/

/-- `tidA` of `95_test_vectors.md`. -/
def tidA : TermId := { b0 := 0x00, b1 := 0x00, b2 := 0x00, b3 := 0x01, b4 := 0x23, b5 := 0x45 }

/-- `tidB` of `95_test_vectors.md`. -/
def tidB : TermId := { b0 := 0x01, b1 := 0x38, b2 := 0x00, b3 := 0x13, b4 := 0x80, b5 := 0x00 }

/-- The characters "000000012345". -/
def strA : List Byte := [0x30, 0x30, 0x30, 0x30, 0x30, 0x30, 0x30, 0x31, 0x32, 0x33, 0x34, 0x35]

/-- The characters "013800138000". -/
def strB : List Byte := [0x30, 0x31, 0x33, 0x38, 0x30, 0x30, 0x31, 0x33, 0x38, 0x30, 0x30, 0x30]

/-- A header with `tidB`. -/
def hdrB (id props serial : Word16) (bodyLen : BitVec 10) : Header :=
  { messageId := id, bodyProperties := props, bodyLen := bodyLen, rsvd := 0, tid6 := tidB, tidStr := strB,
    tidBcdOk := true, serialNumber := serial }

/-- The header of V1. -/
def hdrV1 : Header :=
  { messageId := 0x0002, bodyProperties := 0x0000, bodyLen := 0, rsvd := 0, tid6 := tidA, tidStr := strA,
    tidBcdOk := true, serialNumber := 0x0001 }

/-- A payload whose header has `tidB`: `id`, `props` and `serial` as two bytes each, the body, the checksum. -/
def payloadB (id props serial body cs : List Byte) : List Byte :=
  id ++ props ++ [0x01, 0x38, 0x00, 0x13, 0x80, 0x00] ++ serial ++ body ++ cs

/-- V1 (P1 step 15). -/
theorem test_heartbeat :
    verdictOf (held [0x00, 0x02, 0x00, 0x00, 0x00, 0x00, 0x00, 0x01, 0x23, 0x45, 0x00, 0x01, 0x64] 0x00) false =
      some (.hunt, false, [.event
        { kind := .heartbeat, hdr := hdrV1, body := [], reg := none,
          resp := { rclass := .universal, respId := 0x8001, tid6 := tidA, ackSerial := 0x0001,
                    ackMsgId := 0x0002, result := 0x00 } }]) := by decide

/-- V6: reserved bits set, FLAGS with the header. -/
theorem test_heartbeat_flags :
    verdictOf (held [0x00, 0x02, 0x20, 0x00, 0x00, 0x00, 0x00, 0x01, 0x23, 0x45, 0x00, 0x01, 0x44] 0x00) false =
      some (.hunt, false, [.discard
        { reason := .flags, n := 13, ovf := false,
          hdr := some { hdrV1 with bodyProperties := 0x2000, rsvd := 0x08 } }]) := by decide

/-- V2, V5b and V7: CHECKSUM, TOO_SHORT and LEN_MISMATCH. -/
theorem test_discards :
    verdictOf (held [0x00, 0x02, 0x00, 0x00, 0x00, 0x00, 0x00, 0x01, 0x23, 0x45, 0x00, 0x01, 0x65] 0x01) false =
      some (.hunt, false, [.discard { reason := .checksum, n := 13, ovf := false, hdr := none }]) ∧
    verdictOf (held [0x00, 0x02, 0x00, 0x00, 0x00, 0x00, 0x00, 0x01, 0x23, 0x45, 0x00, 0x65] 0x00) false =
      some (.hunt, false, [.discard { reason := .tooShort, n := 12, ovf := false, hdr := none }]) ∧
    verdictOf (held [0x00, 0x02, 0x00, 0x05, 0x00, 0x00, 0x00, 0x01, 0x23, 0x45, 0x00, 0x01, 0x61] 0x00) false =
      some (.hunt, false, [.discard
        { reason := .lenMismatch, n := 13, ovf := false,
          hdr := some { hdrV1 with bodyProperties := 0x0005, bodyLen := 5 } }]) := by decide

/-- The body of V9b: 37 bytes. -/
def regBody : List Byte :=
  [0x00, 0x2C, 0x01, 0x2F, 0x4D, 0x41, 0x4E, 0x55, 0x46, 0x4D, 0x4F, 0x44, 0x45, 0x4C, 0x2D, 0x58] ++
  [0x00, 0x00, 0x00, 0x00, 0x00, 0x00, 0x00, 0x00, 0x00, 0x00, 0x00, 0x00, 0x00] ++
  [0x54, 0x49, 0x44, 0x30, 0x30, 0x30, 0x31, 0x01]

/-- V9b: a registration with a body of exactly 37 bytes, allowed; and denied when AUTH is 0. -/
theorem test_register (auth : Bool) :
    verdictOf (held (payloadB [0x01, 0x00] [0x00, 0x25] [0x00, 0x06] regBody [0xB8]) 0x00) auth =
      some (.hunt, false, [.event
        { kind := .registration, hdr := hdrB 0x0100 0x0025 0x0006 37, body := regBody,
          reg := some
            { province := 44, city := 303, manufacturerId := [0x4D, 0x41, 0x4E, 0x55, 0x46],
              terminalModel := [0x4D, 0x4F, 0x44, 0x45, 0x4C, 0x2D, 0x58] ++ List.replicate 13 0x00,
              regTerminalId := [0x54, 0x49, 0x44, 0x30, 0x30, 0x30, 0x31], plateColor := 0x01, vin := [] },
          resp := { rclass := .regAck, respId := 0x8100, tid6 := tidB, ackSerial := 0x0006,
                    ackMsgId := 0x0100, result := if auth then 0x00 else 0x01 } }]) := by
  revert auth; decide

/-- V9c: a body of 36 bytes. -/
theorem test_register_short :
    verdictOf (held (payloadB [0x01, 0x00] [0x00, 0x24] [0x00, 0x07] regBody.dropLast [0xB9]) 0x00) true =
      some (.hunt, false, [.discard
        { reason := .decodeFail, n := 49, ovf := false,
          hdr := some (hdrB 0x0100 0x0024 0x0007 36) }]) := by decide

/-- V10. -/
theorem test_auth :
    verdictOf (held (payloadB [0x01, 0x02] [0x00, 0x03] [0x00, 0x07] [0x41, 0x42, 0x43] [0xED]) 0x00) false =
      some (.hunt, false, [.event
        { kind := .authentication, hdr := hdrB 0x0102 0x0003 0x0007 3,
          body := [0x41, 0x42, 0x43], reg := none,
          resp := { rclass := .universal, respId := 0x8001, tid6 := tidB, ackSerial := 0x0007,
                    ackMsgId := 0x0102, result := 0x00 } }]) := by decide

/-- The body of V11b: 27 bytes. -/
def locBody : List Byte :=
  [0x00, 0x00, 0x00, 0x00, 0x00, 0x00, 0x00, 0x03, 0x01, 0x57, 0xE1, 0xA4, 0x06, 0xCA, 0x8F, 0x3C] ++
  [0x00, 0x64, 0x02, 0x58, 0x00, 0x5A, 0x26, 0x11, 0x10, 0x12, 0x30]

/-- V11b with `LOC_MIN_BODY` 0: an event. -/
theorem test_location :
    verdictOf (held (payloadB [0x02, 0x00] [0x00, 0x1B] [0x00, 0x2B] locBody [0x96]) 0x00) false =
      some (.hunt, false, [.event
        { kind := .locationReport, hdr := hdrB 0x0200 0x001B 0x002B 27,
          body := locBody, reg := none,
          resp := { rclass := .universal, respId := 0x8001, tid6 := tidB, ackSerial := 0x002B,
                    ackMsgId := 0x0200, result := 0x00 } }]) := by decide

/-- V11b with `LOC_MIN_BODY` 28: a discard. -/
theorem test_location_short :
    verdictOf { held (payloadB [0x02, 0x00] [0x00, 0x1B] [0x00, 0x2B] locBody [0x96]) 0x00 with
      cfg := { strictFlags := true, locMinBody := 28 } } false =
      some (.hunt, false, [.discard
        { reason := .decodeFail, n := 40, ovf := false,
          hdr := some (hdrB 0x0200 0x001B 0x002B 27) }]) := by decide

/-- V12. -/
theorem test_term_ack :
    verdictOf (held (payloadB [0x00, 0x01] [0x00, 0x05] [0x00, 0x08] [0x00, 0x05, 0x81, 0x00, 0x00] [0x22])
      0x00) false = some (.hunt, false, [.event
        { kind := .terminalCommonResponse, hdr := hdrB 0x0001 0x0005 0x0008 5,
          body := [0x00, 0x05, 0x81, 0x00, 0x00], reg := none,
          resp := { rclass := .none, respId := 0x0000, tid6 := tidB, ackSerial := 0x0008,
                    ackMsgId := 0x0001, result := 0x00 } }]) := by decide

/-- V13. -/
theorem test_text :
    verdictOf (held (payloadB [0x03, 0x00] [0x00, 0x02] [0x00, 0x10] [0x48, 0x49] [0xBA]) 0x00) false =
      some (.hunt, false, [.event
        { kind := .textMessage, hdr := hdrB 0x0300 0x0002 0x0010 2,
          body := [0x48, 0x49], reg := none,
          resp := { rclass := .universal, respId := 0x8001, tid6 := tidB, ackSerial := 0x0010,
                    ackMsgId := 0x0300, result := 0x00 } }]) := by decide

/-- V13b. -/
theorem test_ctrl_resp :
    verdictOf (held (payloadB [0x05, 0x00] [0x00, 0x02] [0x00, 0x11] [0x00, 0x01] [0xBD]) 0x00) false =
      some (.hunt, false, [.event
        { kind := .controlResponse, hdr := hdrB 0x0500 0x0002 0x0011 2,
          body := [0x00, 0x01], reg := none,
          resp := { rclass := .universal, respId := 0x8001, tid6 := tidB, ackSerial := 0x0011,
                    ackMsgId := 0x0500, result := 0x00 } }]) := by decide

/-- V13c. -/
theorem test_timesync :
    verdictOf (held (payloadB [0x0F, 0x01] [0x00, 0x00] [0x00, 0x03] [] [0xA7]) 0x00) false =
      some (.hunt, false, [.event
        { kind := .timeSyncRequest, hdr := hdrB 0x0F01 0x0000 0x0003 0,
          body := [], reg := none,
          resp := { rclass := .timesyncAck, respId := 0x8F01, tid6 := tidB, ackSerial := 0x0003,
                    ackMsgId := 0x0F01, result := 0x01 } }]) := by decide

/-- V13d. -/
theorem test_passthru :
    verdictOf (held (payloadB [0x09, 0x00] [0x00, 0x04] [0x00, 0x12] [0x41, 0x31, 0x32, 0x33] [0xC4]) 0x00)
      false = some (.hunt, false, [.event
        { kind := .dataPassThrough, hdr := hdrB 0x0900 0x0004 0x0012 4,
          body := [0x41, 0x31, 0x32, 0x33], reg := none,
          resp := { rclass := .universal, respId := 0x8001, tid6 := tidB, ackSerial := 0x0012,
                    ackMsgId := 0x0900, result := 0x00 } }]) := by decide

/-- V13e: no type byte. -/
theorem test_passthru_empty :
    verdictOf (held (payloadB [0x09, 0x00] [0x00, 0x00] [0x00, 0x13] [] [0xB0]) 0x00) false =
      some (.hunt, false, [.discard
        { reason := .decodeFail, n := 13, ovf := false,
          hdr := some (hdrB 0x0900 0x0000 0x0013 0) }]) := by decide

/-- V13f. -/
theorem test_unrecognized :
    verdictOf (held (payloadB [0x07, 0x04] [0x00, 0x02] [0x00, 0x20] [0x01, 0x02] [0x88]) 0x00) false =
      some (.hunt, false, [.event
        { kind := .unrecognized, hdr := hdrB 0x0704 0x0002 0x0020 2,
          body := [0x01, 0x02], reg := none,
          resp := { rclass := .universal, respId := 0x8001, tid6 := tidB, ackSerial := 0x0020,
                    ackMsgId := 0x0704, result := 0x03 } }]) := by decide

/-! ### Functions over sequences: the tables of 2.1, 2.2, 2.3 and 2.7 -/

theorem test_bcd_letters :
    decodeBCD [0x12, 0x3A, 0xBC, 0x00, 0x0F, 0x99] 0 6 =
      .ok [0x31, 0x32, 0x33, 0x41, 0x42, 0x43, 0x30, 0x30, 0x30, 0x46, 0x39, 0x39] := by rfl

theorem test_bcd_offset :
    decodeBCD [0xAB, 0x12, 0x34] 1 2 = .ok [0x31, 0x32, 0x33, 0x34] ∧ decodeBCD [0x12, 0x34] 0 0 = .ok [] ∧
    decodeBCD [0x12, 0x34] 1 2 = .error .bcdOutOfRange := ⟨rfl, rfl, rfl⟩

theorem test_encode_bcd :
    encodeBCD [0x31, 0x32, 0x33, 0x34, 0x35] 6 = .ok [0x00, 0x00, 0x00, 0x01, 0x23, 0x45] ∧
    encodeBCD [0x31, 0x32, 0x33] 1 = .ok [0x23] ∧ encodeBCD [] 2 = .ok [0x00, 0x00] ∧
    encodeBCD [0x37] 1 = .ok [0x07] := ⟨rfl, rfl, rfl, rfl⟩

theorem test_unescape :
    unescape [0x41, 0x7D] = [0x41, 0x7D] ∧ unescape [0x7D, 0x03] = [0x7D, 0x03] ∧
    unescape [0x7D, 0x7D, 0x01] = [0x7D, 0x7D] ∧ unescape [0x7D, 0x7D, 0x02] = [0x7D, 0x7E] ∧
    unescape [0x7D, 0x7D, 0x7D, 0x01] = [0x7D, 0x7D, 0x7D] ∧
    unescape [0x7D, 0x02, 0x7D, 0x01] = [0x7E, 0x7D] ∧
    unescape [0x7D, 0x03, 0x7D, 0x02] = [0x7D, 0x03, 0x7E] := by decide

theorem test_escape :
    escape [0x30, 0x7E, 0x08, 0x7D, 0x55] = [0x30, 0x7D, 0x02, 0x08, 0x7D, 0x01, 0x55] ∧
    escape [0x7D, 0x02] = [0x7D, 0x01, 0x02] := by decide

theorem test_split :
    split id [0x7E, 0x41, 0x7E, 0x7E, 0x42, 0x7E] = ([[0x7E, 0x41, 0x7E], [0x7E, 0x42, 0x7E]], []) ∧
    split id [0x7E, 0x41, 0x7E, 0x42, 0x7E] = ([[0x7E, 0x41, 0x7E]], [0x42, 0x7E]) ∧
    split id [0x10, 0x20, 0x30] = ([], [0x10, 0x20, 0x30]) := by decide

/-- V14d: serial low byte and a body byte are escaped. -/
theorem test_build_frame :
    buildFrame { msgId := 0x8100, tid6 := tidB, serial := 0x007D, body := [0x00, 0x05, 0x7E] } =
      .ok [0x7E, 0x81, 0x00, 0x00, 0x03, 0x01, 0x38, 0x00, 0x13, 0x80, 0x00, 0x00, 0x7D, 0x01, 0x00, 0x05,
        0x7D, 0x02, 0x2E, 0x7E] := rfl

/-- V14f: a body of 1024 bytes is refused. -/
theorem test_build_frame_refuses :
    buildFrame { msgId := 0x0300, tid6 := tidB, serial := 0x0030, body := List.replicate 1024 0x7E } =
      .error .bodyTooLong := by
  unfold buildFrame
  rw [if_neg (by rw [List.length_replicate]; decide)]

/-- `N_CHANNELS` instances after reset, each in the state of R32 (R331). -/
theorem test_reset_channels : (Block.reset 3).chans = [State.reset, State.reset, State.reset] := rfl

/-- A block refuses a number that names no instance of it. -/
theorem test_no_such_channel : (Block.reset 2).step 2 = .refused .noSuchChannel := rfl

/-! ### Witnesses: for each statement with hypotheses, concrete values that meet them all; for each clause, at
a boundary of its range -/

/-- A unit with the given inputs waiting. -/
def withInputs (s : State) (is : List Input) : State := { s with inputs := is }

/-- V1 in the unit: a heartbeat whose end delimiter comes next. -/
def heldV1 : State :=
  held [0x00, 0x02, 0x00, 0x00, 0x00, 0x00, 0x00, 0x01, 0x23, 0x45, 0x00, 0x01, 0x64] 0x00

/-- A frame-builder request with a body of `n` zeros. -/
def request (n : Nat) : TxRequest :=
  { msgId := 0x0300, tid6 := tidB, serial := 0x0030, body := List.replicate n 0x00 }

theorem witness_DecodeReadsBackEveryEncoding :
    (Instr.unrecognized 0x0000).wf = true ∧ (Instr.unrecognized 0xFFFF).wf = true ∧
    (Instr.escx 0x00).wf = true ∧ (Instr.data 0x7F).wf = true ∧ (Instr.skip 0x7D).wf = true ∧
    (Instr.enclit 0x7C).wf = true ∧ Instr.eof.wf = true := by decide

theorem witness_DecodedBytesAreTheEncoding :
    decode (.inframe false) [0x7E, 0x41] = .ok (.eof, [0x41]) ∧
    decode .msgId [0xFF, 0xFF, 0x00] = .ok (.unrecognized 0xFFFF, [0x00]) := by decide

/-- The state's conditions of the receive rows, with bytes beside the fixed ones. -/
theorem witness_ReceiveRowsSelectOperations :
    (State.reset.fsm = .hunt ∧ State.reset.esc = false ∧ (0x7D : Byte) ≠ 0x7E) ∧
    (heldV1.fsm = .inframe ∧ heldV1.esc = false ∧ (0x7C : Byte) ≠ 0x7D ∧ (0x7F : Byte) ≠ 0x7E) ∧
    ((inframe true 1 0x41 []).fsm = .inframe ∧ (inframe true 1 0x41 []).esc = true ∧
      (0x00 : Byte) ≠ 0x01 ∧ (0x03 : Byte) ≠ 0x02 ∧ (0x7C : Byte) ≠ 0x7D ∧ (0x7F : Byte) ≠ 0x7E) := by decide

theorem witness_TransmitRowsSelectOperations : (0x7F : Byte) ≠ 0x7E ∧ (0x7F : Byte) ≠ 0x7D := by decide

theorem witness_MessageIdsSelectOperations :
    (0x0000 : Word16) ∉ knownIds ∧ (0x0101 : Word16) ∉ knownIds ∧ (0xFFFF : Word16) ∉ knownIds := by decide

theorem witness_StepRunsTheDecodedOperation :
    (Instr.skip 0x10).wf = true ∧ Instr.close.wf = true ∧ Instr.reset.wf = true ∧ Instr.enc7e.wf = true ∧
    (withInputs State.reset [rxByte 0x10]).inputs = .rx (.byte 0x10) false :: [] ∧
    decode (rxGroup State.reset.fsm State.reset.esc) [0x10] = .ok (.skip 0x10, []) ∧
    (withInputs State.reset [.rx .close true]).inputs = .rx .close true :: [] ∧
    decode .closeEvent [] = .ok (.close, []) ∧
    (withInputs State.reset [.rx .reset true]).inputs = .rx .reset true :: [] ∧
    decode .resetEvent [] = .ok (.reset, []) ∧
    (withInputs State.reset [.txByte 0x7E]).inputs = .txByte 0x7E :: [] ∧
    decode .txByte [0x7E] = .ok (.enc7e, []) := by decide

theorem witness_UnitWithoutInputHoldsItsState : State.reset.inputs = [] := rfl

theorem witness_SkipChangesNothing : State.reset.fsm = .hunt ∧ (0x7D : Byte) ≠ 0x7E := by decide

theorem witness_SofOpensAFrame : State.reset.fsm = .hunt := rfl

theorem witness_DataPushesItsByte :
    heldV1.fsm = .inframe ∧ heldV1.esc = false ∧ (0x7C : Byte) ≠ 0x7D ∧ (0x7C : Byte) ≠ 0x7E := by decide

theorem witness_EscRemembersTheMarker : heldV1.fsm = .inframe ∧ heldV1.esc = false := by decide

theorem witness_EscapePairsPushOneByte :
    (inframe true 1035 0x00 []).fsm = .inframe ∧ (inframe true 1035 0x00 []).esc = true ∧
    (inframe true 1035 0x00 []).rxInstr (.byte 0x7E) ≠ .esc02 ∧ heldV1.rxInstr (.byte 0x02) ≠ .esc02 := by decide

theorem witness_MarkerAfterMarkerPushesTheFirst :
    (inframe true 1036 0x00 []).fsm = .inframe ∧ (inframe true 1036 0x00 []).esc = true := by decide

theorem witness_MalformedEscapePushesBothBytes :
    (inframe true 2046 0x00 []).fsm = .inframe ∧ (inframe true 2046 0x00 []).esc = true ∧
    (0x03 : Byte) ≠ 0x01 ∧ (0x03 : Byte) ≠ 0x02 ∧ (0x03 : Byte) ≠ 0x7D ∧ (0x03 : Byte) ≠ 0x7E ∧
    (inframe true 2046 0x00 []).rxInstr (.byte 0x02) ≠ .escx 0x02 ∧ heldV1.rxInstr (.byte 0x03) ≠ .escx 0x03 := by
  decide

theorem witness_ResetLeavesTheStatedValues :
    (withInputs heldV1 [.rx .reset true]).inputs = .rx .reset true :: [] ∧
    (withInputs heldV1 [.rx .close false]).inputs = .rx .close false :: [] := ⟨rfl, rfl⟩

theorem witness_EofCompletesTheFrame : heldV1.fsm = .inframe := rfl

/-- One frame's header as a function of the byte's place: 12 bytes. -/
def headerOf (hdr : List Byte) (i : Nat) : Byte := hdr.getD i 0x00

/-- Every clause at a boundary: `n` 0; 1 and 2047; 1 and 12; 13 with reserved bits; 13 and 2047 with a wrong
length; PASSTHRU with no body; TEXT with the longest body. -/
theorem witness_CompletionChecksInOrder :
    ((0 : BitVec 11).toNat = 0) ∧
    (1 ≤ (1 : BitVec 11).toNat ∧ 1 ≤ (2047 : BitVec 11).toNat ∧ (0x01 : Byte) ≠ 0) ∧
    (1 ≤ (12 : BitVec 11).toNat ∧ (12 : BitVec 11).toNat ≤ 12 ∧ (1 : BitVec 11).toNat ≤ 12 ∧ (0x00 : Byte) = 0) ∧
    (13 ≤ (13 : BitVec 11).toNat ∧ State.reset.cfg.strictFlags = true ∧
      (parseHeader (headerOf [0x00, 0x02, 0x04])).rsvd ≠ 0) ∧
    (13 ≤ (2047 : BitVec 11).toNat ∧ (parseHeader (headerOf [0x00, 0x02])).rsvd = 0 ∧
      (parseHeader (headerOf [0x00, 0x02])).bodyLen.toNat ≠ (2047 : BitVec 11).toNat - 13) ∧
    ((parseHeader (headerOf [0x09, 0x00])).rsvd = 0 ∧
      (parseHeader (headerOf [0x09, 0x00])).bodyLen.toNat = (13 : BitVec 11).toNat - 13 ∧
      (13 : BitVec 11).toNat - 13 <
        minBody State.reset.cfg (selectMsg (parseHeader (headerOf [0x09, 0x00])).messageId)) ∧
    ((parseHeader (headerOf [0x03, 0x00, 0x03, 0xFF])).rsvd = 0 ∧
      (parseHeader (headerOf [0x03, 0x00, 0x03, 0xFF])).bodyLen.toNat = (1036 : BitVec 11).toNat - 13 ∧
      minBody State.reset.cfg (selectMsg (parseHeader (headerOf [0x03, 0x00, 0x03, 0xFF])).messageId) ≤
        (1036 : BitVec 11).toNat - 13) := by decide

theorem witness_OverlongPayloadsAreDiscarded :
    1037 ≤ (1037 : BitVec 11).toNat ∧ 1037 ≤ (2047 : BitVec 11).toNat := by decide

theorem witness_ZeroFoldIsChecksumMatch : ([0x00] : List Byte) ≠ [] := by decide

theorem witness_OnlyRegistrationReadsAuthorization :
    (parseHeader (headerOf [0x01, 0x01])).messageId ≠ 0x0100 := by decide

theorem witness_EndDelimiterRunsTheSelectedDispatch :
    let s := withInputs heldV1 [rxByte 0x7E]
    s.fsm = .inframe ∧ s.esc = false ∧ s.inputs = .rx (.byte 0x7E) false :: [] ∧ 13 ≤ s.len.toNat ∧
    s.xacc = 0 ∧ s.frame.hdr.rsvd = 0 ∧ s.frame.hdr.bodyLen.toNat = s.len.toNat - 13 := by decide

theorem witness_AcknowledgedKindsAnswerUniversalOk :
    (Instr.auth, EventKind.authentication) = (.auth, .authentication) ∧
    (Instr.ctrlResp, EventKind.controlResponse) = (.ctrlResp, .controlResponse) := by decide

/-- Bodies at and just under each minimum: 1 and 0 bytes for PASSTHRU, `LOC_MIN_BODY` 1 and 0 for LOCATION. -/
theorem witness_MinimumBodyGuardsPassthruAndLocation :
    let long := held (payloadB [0x09, 0x00] [0x00, 0x01] [0x00, 0x12] [0x41] [0x00]) 0x00
    let short := held (payloadB [0x09, 0x00] [0x00, 0x00] [0x00, 0x12] [] [0x00]) 0x00
    let cfg : Config.Params := { strictFlags := true, locMinBody := 1 }
    1 ≤ long.frame.body.length ∧ short.frame.body.length < 1 ∧
    (Instr.location, EventKind.locationReport, 1) = (.location, .locationReport, cfg.locMinBody.val) ∧
    State.reset.cfg.locMinBody.val ≤ short.frame.body.length := by decide

theorem witness_RegistrationSlicesItsBody :
    37 ≤ (held (payloadB [0x01, 0x00] [0x00, 0x25] [0x00, 0x06] regBody [0xB8]) 0x00).frame.body.length ∧
    (held (payloadB [0x01, 0x00] [0x00, 0x24] [0x00, 0x07] regBody.dropLast [0xB9]) 0x00).frame.body.length <
      37 := by decide

theorem witness_DispatchOperandsLieInTheBuffer :
    0 < (held (payloadB [0x09, 0x00] [0x00, 0x01] [0x00, 0x12] [0x41] [0x00]) 0x00).frame.body.length := by
  decide

theorem witness_BcdDecodesHighNibbleFirst :
    1 + 2 ≤ ([0xAB, 0x12, 0x34] : List Byte).length ∧ ([0x12, 0x34] : List Byte).length < 1 + 2 := by decide

theorem witness_HexcharIsTheUpperCaseDigit : (9 : Nibble).toNat ≤ 9 ∧ 10 ≤ (10 : Nibble).toNat := by decide

theorem witness_BcdRoundTrips :
    (∀ c ∈ ([0x30, 0x39, 0x31] : List Byte), 0x30 ≤ c.toNat ∧ c.toNat ≤ 0x39) ∧ tidBcdOk tidB = true ∧
    (∃ c ∈ ([0x30, 0x2F] : List Byte), c.toNat < 0x30 ∨ 0x39 < c.toNat) ∧
    (∃ c ∈ ([0x30, 0x3A] : List Byte), c.toNat < 0x30 ∨ 0x39 < c.toNat) := by decide

theorem witness_EncoderStepsComputeEscape :
    (withInputs State.reset [.txByte 0x7E, .txByte 0x41, .rx .close false]).inputs =
      ([0x7E, 0x41] : List Byte).map Input.txByte ++ [.rx .close false] := rfl

theorem witness_UnescapeUndoesEscape : ∀ b ∈ ([0x01, 0x02, 0x7C, 0x7F] : List Byte), b ≠ 0x7E ∧ b ≠ 0x7D := by
  decide

theorem witness_BuilderFramesOrRefuses :
    (withInputs State.reset [.txFrame (request 1023)]).inputs = .txFrame (request 1023) :: [] ∧
    (request 1023).body.length ≤ 1023 ∧ (request 0).body.length ≤ 1023 ∧ 1023 < (request 1024).body.length := by
  refine ⟨rfl, ?_, ?_, ?_⟩ <;> simp only [request, List.length_replicate] <;> decide

theorem witness_BuiltFramesEndInTheirChecksum :
    buildFrame { msgId := 0x8001, tid6 := tidA, serial := 0x009D, body := [0x00, 0x01, 0x00, 0x02, 0x00] } =
      .ok [0x7E, 0x80, 0x01, 0x00, 0x05, 0x00, 0x00, 0x00, 0x01, 0x23, 0x45, 0x00, 0x9D, 0x00, 0x01, 0x00,
        0x02, 0x00, 0x7D, 0x01, 0x7E] := rfl

/-- V14e, fed to a unit after reset. -/
theorem witness_BuiltFramesLoopBack :
    let bytes : List Byte :=
      [0x7E, 0x00, 0x02, 0x00, 0x00, 0x00, 0x00, 0x00, 0x01, 0x23, 0x45, 0x00, 0x01, 0x64, 0x7E]
    let s := withInputs State.reset (bytes.map (fun b => Input.rx (.byte b) true))
    s.fsm = .hunt ∧ buildFrame { msgId := 0x0002, tid6 := tidA, serial := 0x0001, body := [] } = .ok bytes ∧
    s.inputs = bytes.map (fun b => Input.rx (.byte b) true) ++ [] := ⟨rfl, rfl, rfl⟩

/-- Content after which no marker is pending. -/
def contentClosed : List (Byte × Bool) := [(0x7D, false), (0x02, true), (0x41, false)]

/-- Content after which a marker is pending. -/
def contentOpen : List (Byte × Bool) := [(0x7D, false), (0x7D, true)]

theorem witness_StreamingDecoderIsUnescape :
    (inframe false 0 0x00 []).fsm = .inframe ∧ (inframe false 0 0x00 []).esc = false ∧
    (∀ p ∈ contentClosed, p.1 ≠ 0x7E) ∧ (∀ p ∈ contentOpen, p.1 ≠ 0x7E) ∧
    (withInputs (inframe false 0 0x00 []) (contentOpen.map (fun p => Input.rx (.byte p.1) p.2))).inputs =
      contentOpen.map (fun p => Input.rx (.byte p.1) p.2) :=
  ⟨rfl, rfl, by simp [contentClosed], by simp [contentOpen], rfl⟩

theorem witness_StreamingReceiverIsSplitAndCheck :
    let stream : List (Byte × Bool) := [(0x10, false), (0x7E, false), (0x41, false), (0x7E, true), (0x7E, true)]
    let s := withInputs State.reset (stream.map (fun p => Input.rx (.byte p.1) p.2))
    s.fsm = .hunt ∧ s.inputs = stream.map (fun p => Input.rx (.byte p.1) p.2) := ⟨rfl, rfl⟩

theorem witness_ChunkingOfTheStreamIsInvisible :
    ∃ t : State, Sys2Proof.core.run 1 (withInputs State.reset [rxByte 0x7E]) = .next t := ⟨_, rfl⟩

theorem witness_AdjacentDelimitersAreAnEmptyFrame :
    let s := withInputs State.reset [rxByte 0x7E, .rx (.byte 0x7E) true]
    s.fsm = .hunt ∧ s.inputs = .rx (.byte 0x7E) false :: .rx (.byte 0x7E) true :: [] := ⟨rfl, rfl⟩

theorem witness_DelimitersAreNeverShared :
    let s := withInputs State.reset ([0x7E, 0x41, 0x7E, 0x42, 0x7E].map (fun b => Input.rx (.byte b) false))
    s.fsm = .hunt ∧ (0x7E : Byte) ∉ ([0x41] : List Byte) ∧ (0x7E : Byte) ∉ ([0x42] : List Byte) ∧
    s.inputs = ((0x7E :: [0x41] ++ [0x7E]) ++ [0x42] ++ [0x7E]).map (fun b => Input.rx (.byte b) false) := by
  decide

/-- A body of 1023 bytes is taken, one of 1024 is not; a unit without input takes its step. -/
theorem witness_StepRefusesOnlyLongBodies :
    State.reset.inputs.head? = none ∧
    (withInputs State.reset [.txFrame (request 1023)]).inputs.head? = some (.txFrame (request 1023)) ∧
    (Input.txFrame (request 1023)).admissible = true ∧ (Input.txFrame (request 1024)).admissible = false := by
  refine ⟨rfl, rfl, ?_, ?_⟩ <;> simp only [Input.admissible, request, List.length_replicate] <;> decide

theorem witness_StepTakesOneInputAndKeepsParameters :
    ∃ t : State, step (withInputs State.reset [rxByte 0x7E, rxByte 0x41]) = .next t := ⟨_, rfl⟩

/-- The step of an end delimiter, and two that are none: a delimiter in HUNT and another byte in a frame. -/
theorem witness_OutputExactlyAtEndDelimiters :
    (∃ t : State, step (withInputs heldV1 [rxByte 0x7E]) = .next t) ∧ heldV1.fsm = .inframe ∧
    (∃ t : State, step (withInputs State.reset [rxByte 0x7E]) = .next t) ∧ State.reset.fsm ≠ .inframe ∧
    (∃ t : State, step (withInputs heldV1 [rxByte 0x7F]) = .next t) ∧ (0x7F : Byte) ≠ 0x7E :=
  ⟨⟨_, rfl⟩, rfl, ⟨_, rfl⟩, by decide, ⟨_, rfl⟩, by decide⟩

/-- A delimiter in either state, the two events, and another byte. -/
theorem witness_FsmChangesOnlyAsListed :
    (∃ t : State, step (withInputs State.reset [rxByte 0x7E]) = .next t) ∧
    (∃ t : State, step (withInputs heldV1 [rxByte 0x7E]) = .next t) ∧
    (∃ t : State, step (withInputs heldV1 [.rx .close true]) = .next t) ∧
    (∃ t : State, step (withInputs heldV1 [.rx .reset true]) = .next t) ∧
    (∃ t : State, step (withInputs heldV1 [rxByte 0x7D]) = .next t) :=
  ⟨⟨_, rfl⟩, ⟨_, rfl⟩, ⟨_, rfl⟩, ⟨_, rfl⟩, ⟨_, rfl⟩⟩

/-- A byte of the buffer that a step changes: the first and the last address. -/
theorem witness_BufferIsWrittenOnlyAtLen :
    (∃ t : State, step (withInputs (inframe false 0 0x00 [(0, 0x40)]) [rxByte 0x41]) = .next t ∧
      readPb t.pb 0 ≠ readPb [(0, 0x40)] 0) ∧
    (∃ t : State, step (withInputs (inframe false 1035 0x00 [(1035, 0x40)]) [rxByte 0x41]) = .next t ∧
      readPb t.pb 1035 ≠ readPb [(1035, 0x40)] 1035) ∧
    (∀ b rest, [rxByte 0x41] ≠ .rx .close b :: rest ∧ [rxByte 0x41] ≠ .rx .reset b :: rest) :=
  ⟨⟨_, rfl, by decide⟩, ⟨_, rfl, by decide⟩, fun _ _ => ⟨nofun, nofun⟩⟩

theorem witness_TransmitAndReceiveShareNothing :
    ((∃ t : State, step (withInputs heldV1 [.txByte 0x7E]) = .next t) ∧
      (withInputs heldV1 [.txByte 0x7E]).inputs = .txByte 0x7E :: []) ∧
    ((∃ t : State, step (withInputs heldV1 [.txFrame (request 0)]) = .next t) ∧
      (withInputs heldV1 [.txFrame (request 0)]).inputs = .txFrame (request 0) :: []) ∧
    ((∃ t : State, step (withInputs heldV1 [rxByte 0x7E]) = .next t) ∧
      (withInputs heldV1 [rxByte 0x7E]).inputs = .rx (.byte 0x7E) false :: []) :=
  ⟨⟨⟨_, rfl⟩, rfl⟩, ⟨⟨_, rfl⟩, rfl⟩, ⟨⟨_, rfl⟩, rfl⟩⟩

/-- A unit in mid-frame that meets the invariant, and its step. -/
theorem witness_StepKeepsTheInvariant :
    (withInputs heldV1 [rxByte 0x41]).Inv ∧
    ∃ t : State, step (withInputs heldV1 [rxByte 0x41]) = .next t :=
  ⟨⟨by decide, by decide, fun _ => by decide, fun _ _ => by decide⟩, ⟨_, rfl⟩⟩

/-- Two units in mid-frame that differ in a stale byte, with a step that goes on and one that is refused. -/
theorem witness_StalePayloadIsNeverObserved :
    (∀ is, (withInputs (inframe false 1 0x41 [(0, 0x41)]) is).Alike
      (withInputs (inframe false 1 0x41 [(0, 0x41), (1, 0x99)]) is)) ∧
    (∃ t : State, step (withInputs (inframe false 1 0x41 [(0, 0x41)]) [rxByte 0x7E]) = .next t) ∧
    step (withInputs (inframe false 1 0x41 [(0, 0x41)]) [.txFrame (request 1024)]) = .refused .bodyTooLong := by
  refine ⟨fun is => ⟨rfl, rfl, rfl, rfl, rfl, rfl, rfl, rfl, fun _ => rfl, fun _ => rfl, fun _ => ?_⟩, ⟨_, rfl⟩, ?_⟩
  · show ∀ a, a < 1 → a < Config.pbSize → readPb [(0, 0x41)] a = readPb [(0, 0x41), (1, 0x99)] a
    intro a ha _
    have h0 : a = 0 := by omega
    subst h0
    rfl
  · unfold step withInputs execTxFrame buildFrame
    simp only []
    rw [if_neg (by simp only [request, List.length_replicate]; decide)]

/-- Two instances, each with an input, stepped in turn. -/
theorem witness_ChannelsNeverInteract :
    let blk : Block :=
      { first := withInputs State.reset [rxByte 0x7E], others := [withInputs State.reset [.txByte 0x7E]] }
    (∃ blk', blk.run [1, 0, 1] = .next blk') ∧ (∀ k ∈ [1, 0, 1], k < blk.chans.length) ∧
    (∀ s ∈ blk.chans, ∀ i ∈ s.inputs, i.admissible = true) :=
  ⟨⟨_, rfl⟩, by decide, by decide⟩

end Sys2Proof.Tests
end

/-! SUPPORT. The statements of `00_scope.md`: a step takes one input, keeps the parameters, and puts a value on
EVT exactly at an end delimiter. What an event at RX does to these fields is said first, per operation. -/

namespace Sys2Proof.Machine

/-- No operation of the receive path touches the inputs still waiting. -/
theorem RxEffect.inputs_eq {s t : State} {ev : RxEvent} (h : RxEffect s ev t) : t.inputs = s.inputs := by
  cases h with
  | skip | sof | esc => rfl
  | data | esc02 | esc01 | esc7d | escx | eof | close | reset => simp

/-- No operation of the receive path writes the parameters (`70_reset_and_hazards.md` R351). -/
theorem RxEffect.cfg_eq {s t : State} {ev : RxEvent} (h : RxEffect s ev t) : t.cfg = s.cfg := by
  cases h with
  | skip | sof | esc => rfl
  | data | esc02 | esc01 | esc7d | escx | eof | close | reset => simp

/-- A delimiter in INFRAME puts the frame's verdict on EVT (`42_framer.md` R175): the only row of R95 it
selects there is EOF. -/
theorem RxEffect.evt_of_endDelimiter {s t : State} (h : RxEffect s (.byte Config.delim) t)
    (hf : s.fsm = .inframe) : t.evt = s.evt ++ [s.flushEsc.verdict] := by
  cases h with
  | eof => simp
  | skip _ hb | data _ _ hb | escx _ _ hb => exact absurd rfl hb
  | sof hh => simp [hf] at hh

/-- Every other operation of the receive path leaves EVT as it is (`60_exceptions.md` R310). -/
theorem RxEffect.evt_eq {s t : State} {ev : RxEvent} (h : RxEffect s ev t)
    (hn : ¬ (s.fsm = .inframe ∧ ev = .byte Config.delim)) : t.evt = s.evt := by
  cases h with
  | eof hf => exact absurd ⟨hf, rfl⟩ hn
  | skip | sof | esc => rfl
  | data | esc02 | esc01 | esc7d | escx | close | reset => simp

/-- Settles O52, by the kind of input the step took. -/
theorem stepTakesOneInputAndKeepsParameters : Obligations.StepTakesOneInputAndKeepsParameters := by
  intro s t h
  cases step_cases h with
  | idle hi ht => subst ht; simp [hi]
  | rx hi he => simp [hi, he.inputs_eq, he.cfg_eq]
  | txByte hi ht | txFrame hi _ ht => subst ht; simp [hi]

/-- Settles O53: an end delimiter performs EOF, which puts out one value; every other step, of either path or
idle, leaves EVT alone. -/
theorem outputExactlyAtEndDelimiters : Obligations.OutputExactlyAtEndDelimiters := by
  intro s t h
  constructor
  · rintro ⟨a, rest, hf, hi⟩
    obtain ⟨t', ht', he⟩ := step_rx_effect hi
    obtain rfl : t' = t := by simpa [ht'] using h
    exact ⟨_, he.evt_of_endDelimiter hf⟩
  · intro hn
    cases step_cases h with
    | idle _ ht => rw [ht]
    | @rx ev a rest hi he =>
      refine he.evt_eq ?_
      rintro ⟨hf, rfl⟩
      exact hn ⟨a, rest, hf, hi⟩
    | txByte _ ht | txFrame _ _ ht => subst ht; simp

end Sys2Proof.Machine

/-! SUPPORT. The statements of `10_state.md`: the values after reset, pushes in any number, where `PB` is written,
the invariant every step keeps, and the simulation between states that differ only in stale payload. -/

namespace Sys2Proof.Machine

/-! ### The values after `Reset` and `Close` -/

/-- Settles O19: both events leave the registers of `State.toHunt`, which are those of R32. -/
theorem resetLeavesTheStatedValues : Obligations.ResetLeavesTheStatedValues := by
  refine ⟨⟨rfl, rfl, rfl, rfl⟩, ?_⟩
  intro s ev a rest hev hi
  obtain ⟨t, hstep, he⟩ := step_rx_effect hi
  refine ⟨t, hstep, ?_⟩
  cases he with
  | close | reset => exact ⟨rfl, rfl, rfl, rfl⟩
  | skip | sof | data | esc | esc02 | esc01 | esc7d | escx | eof => simp at hev

/-! ### Pushes in any number -/

@[simp] theorem pushAll_nil (s : State) : s.pushAll [] = s := rfl

@[simp] theorem pushAll_cons (s : State) (v : Byte) (vs : List Byte) :
    s.pushAll (v :: vs) = (s.push v).pushAll vs := rfl

/-- The bytes of the list are pushed one after the other (`10_state.md` R30). -/
theorem pushed_pushAll (s : State) (vs : List Byte) : s.Pushed (s.pushAll vs) vs := by
  induction vs generalizing s with
  | nil => exact pushed_nil s s rfl rfl rfl
  | cons v vs ih => exact (pushed_push s v).trans (ih (s.push v))

/-- Pushes write `PB`, `xacc` and `len` only (R30). -/
theorem pushAll_frame (s : State) (vs : List Byte) :
    (s.pushAll vs).fsm = s.fsm ∧ (s.pushAll vs).esc = s.esc ∧ (s.pushAll vs).evt = s.evt ∧
      s.SamePorts (s.pushAll vs) := by
  induction vs generalizing s with
  | nil => exact ⟨rfl, rfl, rfl, rfl, rfl, rfl, rfl, rfl⟩
  | cons v vs ih => exact ih (s.push v)

/-- Settles O11: the payload by induction on the pushed bytes, and the frame of the pushes beside it. -/
theorem pushesAdvanceThePayload : Obligations.PushesAdvanceThePayload :=
  fun s vs => ⟨pushed_pushAll s vs, pushAll_frame s vs⟩

/-! ### Where `PB` is written -/

/-- A byte that pushes change lies among the pushed places inside `PB` (`10_state.md` R25, `20_memory.md` R51). -/
theorem State.Pushed.changed_lt {s t : State} {vs : List Byte} {a : Nat} (h : s.Pushed t vs)
    (hne : readPb t.pb a ≠ readPb s.pb a) :
    s.len.toNat ≤ a ∧ a < t.len.toNat ∧ a < Config.pbSize := by
  obtain ⟨hlen, -, hpb⟩ := h
  have hsize : Config.pbSize = 1036 := rfl
  rw [hpb a] at hne
  split at hne
  · omega
  · exact absurd rfl hne

/-- A byte taken in INFRAME pushes some bytes and writes the payload in no other way (R25). -/
theorem RxEffect.pushed {s t : State} {b : Byte} (h : RxEffect s (.byte b) t) (hf : s.fsm = .inframe) :
    ∃ vs, s.Pushed t vs := by
  cases h with
  | skip hh | sof hh => simp [hf] at hh
  | esc => exact ⟨_, pushed_nil _ _ rfl rfl rfl⟩
  | data | esc7d => exact ⟨_, pushed_push _ _⟩
  | esc02 | esc01 => exact ⟨_, (pushed_push _ _).of_eq rfl rfl rfl⟩
  | escx => exact ⟨_, ((pushed_push _ _).trans (pushed_push _ _)).of_eq rfl rfl rfl⟩
  | eof => exact ⟨_, (pushed_flushEsc s).of_eq rfl rfl rfl⟩

/-- A byte taken in HUNT leaves `PB` as it is (`42_framer.md` R172, R173). -/
theorem RxEffect.pb_eq_of_hunt {s t : State} {b : Byte} (h : RxEffect s (.byte b) t) (hf : s.fsm = .hunt) :
    t.pb = s.pb := by
  cases h with
  | skip | sof => rfl
  | data hh | esc hh | esc02 hh | esc01 hh | esc7d hh | escx hh | eof hh => simp [hf] at hh

/-- Settles O55: only a byte taken in INFRAME writes `PB`, and it does so by pushes. -/
theorem bufferIsWrittenOnlyAtLen : Obligations.BufferIsWrittenOnlyAtLen := by
  intro s t a h hev hne
  cases step_cases h with
  | idle _ ht | txByte _ ht | txFrame _ _ ht => subst ht; exact absurd rfl hne
  | @rx ev auth rest hi he =>
    cases ev with
    | close => exact absurd hi (hev auth rest).1
    | reset => exact absurd hi (hev auth rest).2
    | byte b =>
      cases hf : s.fsm with
      | hunt => exact absurd (congrArg (readPb · a) (he.pb_eq_of_hunt hf)) hne
      | inframe =>
        obtain ⟨vs, hp⟩ := he.pushed hf
        exact ⟨rfl, hp.changed_lt hne⟩

/-! ### The invariant -/

/-- The invariant depends on the control registers and the payload only; `esc` may change in INFRAME. -/
theorem State.Inv.of_eq {s t : State} (h : s.Inv) (hfsm : t.fsm = s.fsm) (hesc : t.fsm = .hunt → t.esc = false)
    (hlen : t.len = s.len) (hxacc : t.xacc = s.xacc) (hpb : t.pb = s.pb) : t.Inv where
  pbWf := hpb ▸ h.pbWf
  huntEsc := hesc
  written := by rw [hfsm, hlen, hpb]; exact h.written
  folded := by rw [hfsm, hlen, hxacc, hpb]; exact h.folded

/-- In HUNT only the form of `PB` and the flag are claimed (`10_state.md` R21, R22). -/
theorem inv_of_hunt {s : State} (hf : s.fsm = .hunt) (he : s.esc = false) (hwf : s.pb.wf = true) : s.Inv where
  pbWf := hwf
  huntEsc := fun _ => he
  written := by simp [hf]
  folded := by simp [hf]

/-- An empty payload meets what the invariant claims of a frame in progress (R24: `XOR([]) = 0x00`). -/
theorem inv_of_empty {s : State} (hf : s.fsm = .inframe) (hwf : s.pb.wf = true) (hlen : s.len = 0)
    (hxacc : s.xacc = 0x00) : s.Inv where
  pbWf := hwf
  huntEsc := by simp [hf]
  written := by simp [hlen]
  folded := by simp [hlen, hxacc, bytesAt]

/-- After a push the bytes up to the new `len` are written: the old ones were, and the push writes the last. -/
theorem push_written {s : State} {v : Byte}
    (h : ∀ a, a < s.len.toNat → a < Config.pbSize → (s.pb.byteAt? a).isSome = true) :
    ∀ a, a < (s.push v).len.toNat → a < Config.pbSize → ((s.push v).pb.byteAt? a).isSome = true := by
  intro a ha hsize
  rw [push_len, lenNext_toNat] at ha
  rw [byteAt?_push]
  split
  · rfl
  · exact h a (by omega) hsize

/-- A push inside `PB` puts its byte behind those of the payload, which stay as they are (R30). -/
theorem bytesAt_push {s : State} (v : Byte) (h : s.len.toNat < Config.pbSize) :
    bytesAt (readPb (s.push v).pb) 0 (s.push v).len.toNat =
      bytesAt (readPb s.pb) 0 s.len.toNat ++ [v] := by
  have hsize : Config.pbSize = 1036 := rfl
  have hlen : (s.push v).len.toNat = s.len.toNat + 1 := by rw [push_len, lenNext_toNat]; omega
  have hold : bytesAt (readPb (s.push v).pb) 0 s.len.toNat = bytesAt (readPb s.pb) 0 s.len.toNat :=
    bytesAt_congr fun i hi => by rw [readPb_push, if_neg (by omega)]
  have hnew : readPb (s.push v).pb (0 + s.len.toNat) = v := by rw [readPb_push, if_pos (by omega)]
  rw [hlen, bytesAt_succ, hold, hnew]

/-- `push` keeps the invariant (`10_state.md` R24, R30). -/
theorem State.Inv.push {s : State} (h : s.Inv) (v : Byte) : (s.push v).Inv where
  pbWf := push_keeps_wf s v h.pbWf
  huntEsc := h.huntEsc
  written := fun hf => push_written (h.written hf)
  folded := by
    intro hf hfit
    have hsize : Config.pbSize = 1036 := rfl
    have hlt : s.len.toNat < Config.pbSize := by rw [push_len, lenNext_toNat] at hfit; omega
    rw [bytesAt_push v hlt, xorBytes_append, xorBytes_singleton, push_xacc, h.folded hf (by omega)]

theorem State.Inv.flushEsc {s : State} (h : s.Inv) : s.flushEsc.Inv := by
  cases he : s.esc with
  | false => rw [flushEsc_of_clear s he]; exact h
  | true => rw [flushEsc_of_set s he]; exact (h.push 0x7D).of_eq rfl (fun _ => rfl) rfl rfl rfl

/-- Every operation of the receive path keeps the invariant. -/
theorem RxEffect.keeps_inv {s t : State} {ev : RxEvent} (he : RxEffect s ev t) (h : s.Inv) : t.Inv := by
  cases he with
  | skip => exact h
  | sof => exact inv_of_empty rfl h.pbWf rfl rfl
  | data => exact h.push _
  | esc hf => exact h.of_eq rfl (by simp [hf]) rfl rfl rfl
  | esc02 | esc01 => exact (h.push _).of_eq rfl (fun _ => rfl) rfl rfl rfl
  | esc7d => exact h.push _
  | escx => exact ((h.push _).push _).of_eq rfl (fun _ => rfl) rfl rfl rfl
  | eof => exact inv_of_hunt rfl (by simp) h.flushEsc.pbWf
  | close | reset => exact inv_of_hunt rfl rfl rfl

/-- Settles O57, by what the step did: the receive path by operation, every other step leaves the registers and
`PB` alone. -/
theorem stepKeepsTheInvariant : Obligations.StepKeepsTheInvariant := by
  intro s t h hstep
  cases step_cases hstep with
  | idle _ ht => exact ht ▸ h
  | rx _ he => exact he.keeps_inv (h.of_eq rfl h.huntEsc rfl rfl rfl)
  | txByte _ ht | txFrame _ _ ht => subst ht; exact h.of_eq rfl h.huntEsc rfl rfl rfl

/-! ### Stale payload: the effects of a step determine it -/

/-- The rows of R95 with `fsm = HUNT`. -/
theorem rxInstr_of_hunt {s : State} (b : Byte) (hf : s.fsm = .hunt) :
    s.rxInstr (.byte b) = decodeHunt b := by
  rw [State.rxInstr, hf, decodeRx]

/-- The rows of R95 with `fsm = INFRAME`. -/
theorem rxInstr_of_inframe {s : State} {e : Bool} (b : Byte) (hf : s.fsm = .inframe) (he : s.esc = e) :
    s.rxInstr (.byte b) = decodeInframe e b := by
  rw [State.rxInstr, hf, he, decodeRx]

/-- The converse of `exec_rx`: an effect is that of the operation the event selects (`30_encoding.md` R95). -/
theorem RxEffect.exec_eq {s t : State} {ev : RxEvent} (h : RxEffect s ev t) :
    exec (s.rxInstr ev) s = .next t := by
  cases h with
  | skip hf hb => rw [rxInstr_of_hunt _ hf, decodeHunt, if_neg hb]; rfl
  | sof hf => rw [rxInstr_of_hunt _ hf]; rfl
  | data hf he hd hm =>
    rw [rxInstr_of_inframe _ hf he, decodeInframe, if_neg hd, if_neg Bool.false_ne_true, if_neg hm]; rfl
  | esc hf he | esc02 hf he | esc01 hf he | esc7d hf he => rw [rxInstr_of_inframe _ hf he]; rfl
  | escx hf he hd h2 h1 hm =>
    rw [rxInstr_of_inframe _ hf he, decodeInframe, if_neg hd, if_pos rfl, if_neg h2, if_neg h1, if_neg hm]; rfl
  | eof hf => rw [rxInstr_of_inframe _ hf rfl]; rfl
  | close | reset => rfl

/-- The converse of `step_cases`: a step does what its effect says. -/
theorem StepEffect.step_eq {s t : State} (h : StepEffect s t) : step s = .next t := by
  cases h with
  | idle hi ht => rw [step_idle hi, ht]
  | rx hi he => rw [step_rx hi, ← he.exec_eq]; rfl
  | txByte hi ht => rw [step_txByte hi, exec_decodeTx, ht]
  | txFrame hi hb ht => rw [step_txFrame hi, execTxFrame, hb, ht]

/-- A step is refused exactly when it takes a request that the frame builder refuses
(`46_frame_builder.md` R293, `60_exceptions.md` R322). -/
theorem step_refused_iff {s : State} {r : Refusal} :
    step s = .refused r ↔ ∃ req rest, s.inputs = .txFrame req :: rest ∧ buildFrame req = .error r := by
  constructor
  · intro h
    cases hi : s.inputs with
    | nil => simp [step_idle hi] at h
    | cons i rest =>
      cases i with
      | rx ev a =>
        obtain ⟨t, ht, -⟩ := step_rx_effect hi
        simp [ht] at h
      | txByte b => simp [step_txByte hi, exec_decodeTx] at h
      | txFrame req =>
        rw [step_txFrame hi, execTxFrame] at h
        cases hb : buildFrame req with
        | ok bytes => simp [hb] at h
        | error e =>
          obtain rfl : e = r := by simpa [hb] using h
          exact ⟨req, rest, rfl, hb⟩
  · rintro ⟨req, rest, hi, hb⟩
    rw [step_txFrame hi, execTxFrame, hb]

/-! ### Stale payload: the simulation -/

section Alike
variable {s t : State}

theorem State.Alike.setEsc (h : s.Alike t) (e : Bool) :
    State.Alike { s with esc := e } { t with esc := e } := { h with esc := rfl }

theorem State.Alike.took (h : s.Alike t) (rest : List Input) (a : Bool) :
    (s.took rest a).Alike (t.took rest a) := { h with inputs := rfl, authOk := rfl }

theorem State.Alike.setInputs (h : s.Alike t) (rest : List Input) :
    State.Alike { s with inputs := rest } { t with inputs := rest } := { h with inputs := rfl }

theorem State.Alike.putEncoded (h : s.Alike t) (bs : List Byte) :
    (s.putEncoded bs).Alike (t.putEncoded bs) := { h with enc := by simp [h.enc] }

theorem State.Alike.transmit (h : s.Alike t) (frame : List Byte) :
    (s.transmit frame).Alike (t.transmit frame) := { h with txo := by simp [h.txo] }

/-- `push` writes the same byte to the same address of both buffers, and both counters cover it. -/
theorem State.Alike.push (h : s.Alike t) (v : Byte) : (s.push v).Alike (t.push v) :=
  { h with
    len := fun hf => by rw [push_len, push_len, h.len hf]
    xacc := fun hf => by rw [push_xacc, push_xacc, h.xacc hf]
    pb := by
      intro hf a ha hsize
      rw [push_len, lenNext_toNat] at ha
      rw [readPb_push, readPb_push, ← h.len hf]
      split
      · rfl
      · exact h.pb hf a (by omega) hsize }

theorem State.Alike.flushEsc (h : s.Alike t) : s.flushEsc.Alike t.flushEsc := by
  cases he : s.esc with
  | false => rw [flushEsc_of_clear s he, flushEsc_of_clear t (h.esc ▸ he)]; exact h
  | true => rw [flushEsc_of_set s he, flushEsc_of_set t (h.esc ▸ he)]; exact (h.push 0x7D).setEsc false

/-- The start delimiter begins both frames with no payload (`42_framer.md` R173). -/
theorem State.Alike.openFrame (h : s.Alike t) :
    State.Alike { s with fsm := .inframe, esc := false, len := 0, xacc := 0x00 }
      { t with fsm := .inframe, esc := false, len := 0, xacc := 0x00 } :=
  { h with
    fsm := rfl, esc := rfl, len := fun _ => rfl, xacc := fun _ => rfl
    pb := fun _ a ha => absurd ha (Nat.not_lt_zero a) }

/-- In HUNT no payload state is compared, so closing both frames with one value on EVT keeps them alike. -/
theorem State.Alike.finishFrame (h : s.Alike t) (o : EvtOut) : (s.finishFrame o).Alike (t.finishFrame o) :=
  { h with fsm := rfl, evt := by simp [h.evt], len := nofun, xacc := nofun, pb := nofun }

theorem State.Alike.toHunt (h : s.Alike t) : s.toHunt.Alike t.toHunt :=
  { h with fsm := rfl, esc := rfl, len := nofun, xacc := nofun, pb := nofun }

/-- `Complete` reads only bytes of `PB` below `min(len, 1036)`, so alike frames have one verdict (R25, R52). -/
theorem State.Alike.verdict_eq (h : s.Alike t) (hf : s.fsm = .inframe) : s.verdict = t.verdict := by
  unfold State.verdict
  rw [h.cfg, h.xacc hf, h.authOk, ← h.len hf]
  exact complete_congr (h.pb hf)

/-- Each operation of the receive path takes alike states to alike states. -/
theorem State.Alike.rxEffect {s' : State} {ev : RxEvent} (h : s.Alike t) (heff : RxEffect s ev s') :
    ∃ t', RxEffect t ev t' ∧ s'.Alike t' := by
  have fsm {f} (hf : s.fsm = f) : t.fsm = f := h.fsm ▸ hf
  have esc {e} (he : s.esc = e) : t.esc = e := h.esc ▸ he
  cases heff with
  | skip hf hb => exact ⟨_, .skip (fsm hf) hb, h⟩
  | sof hf => exact ⟨_, .sof (fsm hf), h.openFrame⟩
  | data hf he hd hm => exact ⟨_, .data (fsm hf) (esc he) hd hm, h.push _⟩
  | esc hf he => exact ⟨_, .esc (fsm hf) (esc he), h.setEsc _⟩
  | esc02 hf he => exact ⟨_, .esc02 (fsm hf) (esc he), (h.push _).setEsc _⟩
  | esc01 hf he => exact ⟨_, .esc01 (fsm hf) (esc he), (h.push _).setEsc _⟩
  | esc7d hf he => exact ⟨_, .esc7d (fsm hf) (esc he), h.push _⟩
  | escx hf he hd h2 h1 hm =>
    exact ⟨_, .escx (fsm hf) (esc he) hd h2 h1 hm, ((h.push _).push _).setEsc _⟩
  | eof hf =>
    have hv : s.flushEsc.verdict = t.flushEsc.verdict := h.flushEsc.verdict_eq (by simp [hf])
    exact ⟨_, .eof (fsm hf), hv ▸ h.flushEsc.finishFrame _⟩
  | close => exact ⟨_, .close, h.toHunt⟩
  | reset => exact ⟨_, .reset, h.toHunt⟩

/-- Whatever a step did to one state, the same step does to an alike one. -/
theorem State.Alike.stepEffect {s' : State} (h : s.Alike t) (he : StepEffect s s') :
    ∃ t', StepEffect t t' ∧ s'.Alike t' := by
  cases he with
  | idle hi hs' => exact ⟨t, .idle (h.inputs ▸ hi) rfl, hs' ▸ h⟩
  | @rx ev a rest hi he =>
    obtain ⟨t', het, hal⟩ := (h.took rest a).rxEffect he
    exact ⟨t', .rx (h.inputs ▸ hi) het, hal⟩
  | @txByte b rest hi hs' =>
    exact ⟨_, .txByte (h.inputs ▸ hi) rfl, hs' ▸ (h.setInputs rest).putEncoded _⟩
  | @txFrame r rest bytes hi hb hs' =>
    exact ⟨_, .txFrame (h.inputs ▸ hi) hb rfl, hs' ▸ (h.setInputs rest).transmit bytes⟩

end Alike

/-- Settles O59: `State.Alike` is a simulation, and the refusal reads only the input. -/
theorem stalePayloadIsNeverObserved : Obligations.StalePayloadIsNeverObserved := by
  intro s t h
  constructor
  · intro s' hstep
    obtain ⟨t', het, hal⟩ := h.stepEffect (step_cases hstep)
    exact ⟨t', het.step_eq, hal⟩
  · intro r hr
    rw [step_refused_iff] at hr ⊢
    exact h.inputs ▸ hr

end Sys2Proof.Machine

/-! SUPPORT. The statements of `20_memory.md`: the channels of a block share no state. A step of a block is said
per channel, then a run of it, first for what a run does and then for when it can be made. -/

namespace Sys2Proof.Machine

/-! ### What a run of a block does to each channel -/

theorem block_run_nil (blk : Block) : blk.run [] = .next blk := rfl

/-- A run whose first step answers a next block. -/
theorem block_run_cons {blk blk' : Block} {j : Nat} (sched : List Nat) (h : blk.step j = .next blk') :
    blk.run (j :: sched) = blk'.run sched := by
  simp only [Block.run, h]

/-- A run that answers a next block has a first step that does. -/
theorem block_run_cons_inv {blk blk' : Block} {j : Nat} {sched : List Nat}
    (h : blk.run (j :: sched) = .next blk') :
    ∃ mid, blk.step j = .next mid ∧ mid.run sched = .next blk' := by
  cases hj : blk.step j with
  | next mid => exact ⟨mid, rfl, block_run_cons sched hj ▸ h⟩
  | fault f => cases f
  | refused r => simp [Block.run, hj] at h

/-- No step adds or removes a channel. -/
theorem block_step_length {blk blk' : Block} {j : Nat} (h : blk.step j = .next blk') :
    blk'.chans.length = blk.chans.length := by
  obtain ⟨s, s', -, -, rfl⟩ := block_step_next h
  simp

/-- The channel a step names takes its own step (`60_exceptions.md` R331). -/
theorem block_step_self {blk blk' : Block} {k : Nat} {s : State} (h : blk.step k = .next blk')
    (hk : blk.chans[k]? = some s) : ∃ s', step s = .next s' ∧ blk'.chans[k]? = some s' := by
  obtain ⟨u, s', hu, hs, rfl⟩ := block_step_next h
  obtain rfl : u = s := by simpa [hu] using hk
  obtain ⟨hlt, -⟩ := List.getElem?_eq_some_iff.mp hk
  exact ⟨s', hs, by rw [chans_setChan, List.getElem?_set_self hlt]⟩

/-- Every other channel stays as it is (`20_memory.md` R61). -/
theorem block_step_other {blk blk' : Block} {j k : Nat} (h : blk.step j = .next blk') (hne : j ≠ k) :
    blk'.chans[k]? = blk.chans[k]? := by
  obtain ⟨s, s', -, -, rfl⟩ := block_step_next h
  rw [chans_setChan, List.getElem?_set_ne hne]

theorem block_run_length {blk blk' : Block} {sched : List Nat} (h : blk.run sched = .next blk') :
    blk'.chans.length = blk.chans.length := by
  induction sched generalizing blk with
  | nil => cases h; rfl
  | cons j sched ih =>
    obtain ⟨mid, hj, hrun⟩ := block_run_cons_inv h
    exact (ih hrun).trans (block_step_length hj)

/-- A run of a block, seen at one channel, is that channel's own run of as many steps as the interleaving
gives it (`20_memory.md` R61). -/
theorem block_run_chan {blk blk' : Block} {sched : List Nat} {k : Nat} {s : State}
    (h : blk.run sched = .next blk') (hk : blk.chans[k]? = some s) :
    ∃ s' : State, Sys2Proof.core.run (sched.count k) s = .next s' ∧ blk'.chans[k]? = some s' := by
  induction sched generalizing blk s with
  | nil => cases h; exact ⟨s, core_run_zero s, hk⟩
  | cons j sched ih =>
    obtain ⟨mid, hj, hrun⟩ := block_run_cons_inv h
    by_cases hjk : j = k
    · subst hjk
      obtain ⟨u, hu, hmid⟩ := block_step_self hj hk
      rw [List.count_cons_self, core_run_succ _ hu]
      exact ih hrun hmid
    · rw [List.count_cons_of_ne hjk]
      exact ih hrun ((block_step_other hj hjk).trans hk)

/-! ### When a run of a block can be made -/

/-- The frame builder refuses only a request the hardware does not take (`46_frame_builder.md` R293). -/
theorem not_admissible_of_buildFrame_error {req : TxRequest} {r : Refusal} (h : buildFrame req = .error r) :
    ¬ (Input.txFrame req).admissible = true := by
  intro hadm
  have hlen : req.body.length ≤ Config.bodyMax := by simpa [Input.admissible] using hadm
  simp [buildFrame, hlen] at h

/-- A step that takes no inadmissible input answers a next state (`60_exceptions.md` R322). -/
theorem step_next_of_admissible {s : State} (h : ∀ i, s.inputs.head? = some i → i.admissible = true) :
    ∃ t, step s = .next t := by
  cases hs : step s with
  | next t => exact ⟨t, rfl⟩
  | fault f => cases f
  | refused r =>
    obtain ⟨req, rest, hi, hb⟩ := step_refused_iff.mp hs
    exact absurd (h _ (by rw [hi]; rfl)) (not_admissible_of_buildFrame_error hb)

/-- All inputs waiting at a unit are ones the hardware takes. -/
def State.InputsAdmissible (s : State) : Prop := ∀ i ∈ s.inputs, i.admissible = true

theorem State.InputsAdmissible.step_next {s : State} (h : s.InputsAdmissible) : ∃ t, step s = .next t :=
  step_next_of_admissible fun i hi => h i (List.mem_of_head? hi)

/-- A step takes the oldest input and adds none (`00_scope.md` R9). -/
theorem State.InputsAdmissible.of_step {s t : State} (h : s.InputsAdmissible) (hs : step s = .next t) :
    t.InputsAdmissible := by
  intro i hi
  obtain ⟨htail, -⟩ := stepTakesOneInputAndKeepsParameters s t hs
  exact h i (List.mem_of_mem_tail (htail ▸ hi))

/-- A step of a channel of the block can be made, and leaves all waiting inputs admissible. -/
theorem block_step_of_admissible {blk : Block} {k : Nat} (hk : k < blk.chans.length)
    (hadm : ∀ s ∈ blk.chans, s.InputsAdmissible) :
    ∃ blk', blk.step k = .next blk' ∧ ∀ s ∈ blk'.chans, s.InputsAdmissible := by
  have hself : blk.chans[k].InputsAdmissible := hadm _ (List.getElem_mem hk)
  obtain ⟨s', hs'⟩ := hself.step_next
  refine ⟨blk.setChan k s', block_step_of_step (List.getElem?_eq_getElem hk) hs', fun u hu => ?_⟩
  rw [chans_setChan] at hu
  rcases List.mem_or_eq_of_mem_set hu with hold | rfl
  · exact hadm u hold
  · exact hself.of_step hs'

/-- An interleaving of channels of the block can be made while all waiting inputs are admissible. -/
theorem block_run_of_admissible {blk : Block} {sched : List Nat} (hsched : ∀ k ∈ sched, k < blk.chans.length)
    (hadm : ∀ s ∈ blk.chans, s.InputsAdmissible) : ∃ blk', blk.run sched = .next blk' := by
  induction sched generalizing blk with
  | nil => exact ⟨blk, block_run_nil blk⟩
  | cons j sched ih =>
    obtain ⟨hj, hrest⟩ := List.forall_mem_cons.mp hsched
    obtain ⟨mid, hmid, hadm'⟩ := block_step_of_admissible hj hadm
    rw [block_run_cons sched hmid]
    exact ih (by rwa [block_step_length hmid]) hadm'

/-- Settles O60: a run seen at one channel is that channel's own run, and admissible inputs stay admissible, so
no step of the interleaving is refused. -/
theorem channelsNeverInteract : Obligations.ChannelsNeverInteract :=
  fun _ _ => ⟨fun _ h => ⟨block_run_length h, fun _ _ hk => block_run_chan h hk⟩,
    fun hsched hadm => block_run_of_admissible hsched hadm⟩

end Sys2Proof.Machine

/-! SUPPORT. The statements of `30_encoding.md`: the rows of the three decode tables and the numbers of the
outputs. The rows with a fixed byte or id are read off the tables; the default row of each group is said once,
for every value that no other row of the group matches. -/

namespace Sys2Proof.Machine

/-! ### The default rows of the decode tables -/

section DefaultRows
variable {b : Byte}

/-- The default row of HUNT (R95). -/
theorem decodeHunt_of_ne (hd : b ≠ Config.delim) : decodeHunt b = .skip b := if_neg hd

/-- The default row of INFRAME with no marker pending (R95). -/
theorem decodeInframe_literal (hd : b ≠ Config.delim) (hm : b ≠ Config.escMark) :
    decodeInframe false b = .data b := by
  rw [decodeInframe, if_neg hd, if_neg Bool.false_ne_true, if_neg hm]

/-- The default row of INFRAME with a marker pending (R95): a malformed escape. -/
theorem decodeInframe_malformed (hd : b ≠ Config.delim) (h2 : b ≠ Config.escDelim) (h1 : b ≠ Config.escSelf)
    (hm : b ≠ Config.escMark) : decodeInframe true b = .escx b := by
  rw [decodeInframe, if_neg hd, if_pos rfl, if_neg h2, if_neg h1, if_neg hm]

/-- The default row of the escape encoder (R96). -/
theorem decodeTx_literal (hd : b ≠ Config.delim) (hm : b ≠ Config.escMark) : decodeTx b = .enclit b := by
  rw [decodeTx, if_neg hd, if_neg hm]

end DefaultRows

/-- The default row of the message table (R97): an id outside the listed nine. -/
theorem selectMsg_of_notMem_knownIds {id : Word16} (h : id ∉ knownIds) : selectMsg id = .unrecognized id := by
  simp only [knownIds, List.mem_cons, List.not_mem_nil, or_false, not_or] at h
  simp only [selectMsg, h, if_false]

/-! ### The tables -/

/-- Settles O3, by the group of rows the state names: its fixed bytes, then its default row. -/
theorem receiveRowsSelectOperations : Obligations.ReceiveRowsSelectOperations := by
  intro s
  refine ⟨fun hf _ => ?hunt, fun hf he => ?literal, fun hf he => ?pending, rfl, rfl⟩
  case hunt =>
    simp only [rxInstr_of_hunt _ hf]
    exact ⟨fun _ => decodeHunt_of_ne, rfl⟩
  case literal =>
    simp only [rxInstr_of_inframe _ hf he]
    exact ⟨fun _ hm hd => decodeInframe_literal hd hm, rfl, rfl⟩
  case pending =>
    simp only [rxInstr_of_inframe _ hf he]
    exact ⟨rfl, rfl, rfl, fun _ h1 h2 hm hd => decodeInframe_malformed hd h2 h1 hm, rfl⟩

/-- Settles O4: two fixed bytes and the default row. -/
theorem transmitRowsSelectOperations : Obligations.TransmitRowsSelectOperations :=
  ⟨rfl, rfl, fun _ => decodeTx_literal⟩

/-- Settles O5: nine fixed ids, and the default row for an id that is none of them. -/
theorem messageIdsSelectOperations : Obligations.MessageIdsSelectOperations := by
  refine ⟨rfl, rfl, rfl, rfl, rfl, rfl, rfl, rfl, rfl, ?_⟩
  intro id hTermAck hHeartbeat hRegister hAuth hLocation hText hCtrlResp hPassthru hTimesync
  have hunknown : id ∉ knownIds := by
    simp only [knownIds, List.mem_cons, List.not_mem_nil, or_false, not_or]
    exact ⟨hTermAck, hHeartbeat, hRegister, hAuth, hLocation, hText, hCtrlResp, hPassthru, hTimesync⟩
  exact selectMsg_of_notMem_knownIds hunknown

/-! ### The numbers of the outputs -/

/-- Settles O34: the three lists of R94 name every constructor once, so each number is a row of its table. -/
theorem outputCodesAreTheListedNumbers : Obligations.OutputCodesAreTheListedNumbers :=
  ⟨rfl, rfl, rfl⟩

end Sys2Proof.Machine

/-! SUPPORT. The statements of `40_bcd.md`: the characters of a BCD string by position, the two answers of
`decodeBCD`, and the terminal id read as a span of the payload bytes. -/

namespace Sys2Proof.Machine

/-! ### The characters of a BCD string -/

theorem bcdString_cons (b : Byte) (bs : List Byte) :
    bcdString (b :: bs) = hexchar (hiNibble b) :: hexchar (loNibble b) :: bcdString bs := rfl

@[simp] theorem bcdString_length (bs : List Byte) : (bcdString bs).length = 2 * bs.length := by
  induction bs with
  | nil => rfl
  | cons b bs ih => simp only [bcdString_cons, List.length_cons, ih]; omega

/-- Byte `i` stands at the characters `2i` and `2i + 1`, high nibble first (`40_bcd.md` R120). -/
theorem bcdString_getElem? {bs : List Byte} {i : Nat} {b : Byte} (h : bs[i]? = some b) :
    (bcdString bs)[2 * i]? = some (hexchar (hiNibble b)) ∧
      (bcdString bs)[2 * i + 1]? = some (hexchar (loNibble b)) := by
  induction bs generalizing i with
  | nil => simp at h
  | cons c bs ih =>
    rw [bcdString_cons]
    cases i with
    | zero =>
      obtain rfl : c = b := by simpa using h
      exact ⟨rfl, rfl⟩
    | succ i =>
      rw [List.getElem?_cons_succ] at h
      exact ih h

/-! ### The two answers of the decoder -/

theorem decodeBCD_of_le {bytes : List Byte} {offset length : Nat} (h : offset + length ≤ bytes.length) :
    decodeBCD bytes offset length = .ok (bcdString ((bytes.drop offset).take length)) := if_pos h

/-- A call outside the bytes is refused (`40_bcd.md` R124). -/
theorem decodeBCD_of_lt {bytes : List Byte} {offset length : Nat} (h : bytes.length < offset + length) :
    decodeBCD bytes offset length = .error .bcdOutOfRange := if_neg (Nat.not_le.mpr h)

/-- Settles O35: the decoder's answer is the BCD string of the span, read by position. -/
theorem bcdDecodesHighNibbleFirst : Obligations.BcdDecodesHighNibbleFirst := by
  intro bytes offset length
  refine ⟨fun hin => ⟨_, decodeBCD_of_le hin, ?length, fun i hi => ?chars⟩, decodeBCD_of_lt⟩
  case length =>
    rw [bcdString_length, List.length_take, List.length_drop]
    omega
  case chars =>
    have hb : bytes[offset + i]? = some bytes[offset + i] := List.getElem?_eq_getElem (by omega)
    have hspan : ((bytes.drop offset).take length)[i]? = some bytes[offset + i] := by
      rw [List.getElem?_take_of_lt hi, List.getElem?_drop, hb]
    exact ⟨_, hb, bcdString_getElem? hspan⟩

/-! ### The terminal id -/

/-- A span of payload bytes read in a row is those bytes, read from where the span begins. -/
theorem take_drop_bytesAt {rd : Nat → Byte} {a n k m : Nat} (h : k + m ≤ n) :
    ((bytesAt rd a n).drop k).take m = bytesAt rd (a + k) m := by
  apply List.ext_getElem
  · simp only [List.length_take, List.length_drop, bytesAt_length]; omega
  · intro i _ _
    simp [bytesAt, Nat.add_assoc]

theorem termIdAt_bytes (rd : Nat → Byte) : (termIdAt rd).bytes = bytesAt rd 4 6 := rfl

theorem hiNibble_toNat (b : Byte) : (hiNibble b).toNat = b.toNat / 16 := by
  have hb : b.toNat < 256 := b.isLt
  simp only [hiNibble, BitVec.extractLsb'_toNat, Nat.shiftRight_eq_div_pow]
  omega

theorem loNibble_toNat (b : Byte) : (loNibble b).toNat = b.toNat % 16 := by
  simp [loNibble]

theorem nibblesDecimal_iff (b : Byte) : nibblesDecimal b = true ↔ b.toNat / 16 ≤ 9 ∧ b.toNat % 16 ≤ 9 := by
  simp [nibblesDecimal, BitVec.le_def, hiNibble_toNat, loNibble_toNat]

/-- `tid_bcd_ok` of the bytes `PB[4..9]`, by address (`40_bcd.md` R123). -/
theorem tidBcdOk_termIdAt_iff (rd : Nat → Byte) :
    tidBcdOk (termIdAt rd) = true ↔
      ∀ a, 4 ≤ a → a ≤ 9 → (rd a).toNat / 16 ≤ 9 ∧ (rd a).toNat % 16 ≤ 9 := by
  simp only [tidBcdOk, termIdAt_bytes, bytesAt, List.all_map, List.all_eq_true, List.mem_range,
    Function.comp_apply, nibblesDecimal_iff]
  constructor
  · intro h a hlo hhi
    obtain ⟨i, rfl⟩ := Nat.exists_eq_add_of_le hlo
    exact h i (by omega)
  · exact fun h i hi => h (4 + i) (by omega) (by omega)

/-- Settles O21: the string is the decoder's over the span `PB[4..9]`, two characters for each of six bytes. -/
theorem terminalIdStringIsNeverTrimmed : Obligations.TerminalIdStringIsNeverTrimmed := by
  intro rd
  refine ⟨bcdString_length _, ?decoded, tidBcdOk_termIdAt_iff rd⟩
  case decoded =>
    have hin : 4 + 6 ≤ (bytesAt rd 0 12).length := by simp
    calc decodeBCD (bytesAt rd 0 12) 4 6
        = .ok (bcdString (((bytesAt rd 0 12).drop 4).take 6)) := decodeBCD_of_le hin
      _ = .ok (bcdString (termIdAt rd).bytes) := by rw [take_drop_bytesAt (by omega), termIdAt_bytes]

end Sys2Proof.Machine

/-! SUPPORT. The statements of `41_escape_codec.md`: the decoder's byte operations and what each pushes, the
decoder over a content read against `Unescape`, the encoder, and what the two paths leave to one another. -/

namespace Sys2Proof.Machine

/-! ### The byte operations of the decoder -/

/-- Pushes with a new value of the flag beside them: the shape of every byte operation of the decoder. -/
theorem pushAll_setEsc (s : State) (vs : List Byte) (e : Bool) :
    let t : State := { s.pushAll vs with esc := e }
    s.Pushed t vs ∧ t.fsm = s.fsm ∧ t.esc = e ∧ t.evt = s.evt ∧ s.SamePorts t := by
  obtain ⟨hfsm, -, hevt, hports⟩ := pushAll_frame s vs
  exact ⟨(pushed_pushAll s vs).of_eq rfl rfl rfl, hfsm, rfl, hevt, hports⟩

/-- Settles O13: the row of R95, and the one register ESC writes. -/
theorem escRemembersTheMarker : Obligations.EscRemembersTheMarker := by
  intro s
  obtain ⟨-, hliteral, -⟩ := receiveRowsSelectOperations s
  refine ⟨fun hf he => ?_, rfl⟩
  obtain ⟨-, hesc, -⟩ := hliteral hf he
  exact hesc

/-- Settles O15: ESC7D is one push and nothing else. -/
theorem markerAfterMarkerPushesTheFirst : Obligations.MarkerAfterMarkerPushesTheFirst := by
  intro s
  obtain ⟨-, -, hpending, -⟩ := receiveRowsSelectOperations s
  refine ⟨fun hf he => ?_, s.pushAll [0x7D], rfl, pushesAdvanceThePayload s [0x7D]⟩
  obtain ⟨-, -, hesc7d, -⟩ := hpending hf he
  exact hesc7d

/-- The marker that is pending while `esc` is 1, as a sequence. -/
def pendingMarker (esc : Bool) : List Byte := if esc = true then [0x7D] else []

@[simp] theorem pendingMarker_true : pendingMarker true = [0x7D] := rfl
@[simp] theorem pendingMarker_false : pendingMarker false = [] := rfl

/-- What the byte operation selected by (`esc`, `b`) in a frame pushes, by the rows of R95
(`41_escape_codec.md` R141 to R146, `42_framer.md` R174). -/
def framePushes (esc : Bool) (b : Byte) : List Byte :=
  if b = Config.delim then pendingMarker esc
  else if esc then
    if b = Config.escDelim then [Config.delim]
    else if b = Config.escSelf ∨ b = Config.escMark then [Config.escMark]
    else [Config.escMark, b]
  else if b = Config.escMark then [] else [b]

theorem framePushes_literal {b : Byte} (hd : b ≠ Config.delim) (hm : b ≠ Config.escMark) :
    framePushes false b = [b] := by
  rw [framePushes, if_neg hd, if_neg Bool.false_ne_true, if_neg hm]

theorem framePushes_malformed {b : Byte} (hd : b ≠ Config.delim) (h2 : b ≠ Config.escDelim)
    (h1 : b ≠ Config.escSelf) (hm : b ≠ Config.escMark) : framePushes true b = [Config.escMark, b] := by
  rw [framePushes, if_neg hd, if_pos rfl, if_neg h2, if_neg (not_or.mpr ⟨h1, hm⟩)]

/-- A byte taken in INFRAME pushes what its row says and writes the payload in no other way. -/
theorem RxEffect.pushed_framePushes {s t : State} {b : Byte} (h : RxEffect s (.byte b) t)
    (hf : s.fsm = .inframe) : s.Pushed t (framePushes s.esc b) := by
  cases h with
  | skip hh | sof hh => simp [hf] at hh
  | data _ he hd hm => rw [he, framePushes_literal hd hm]; exact pushed_push s b
  | esc _ he => rw [he]; exact pushed_nil _ _ rfl rfl rfl
  | esc02 _ he | esc01 _ he => rw [he]; exact (pushed_push _ _).of_eq rfl rfl rfl
  | esc7d _ he => rw [he]; exact pushed_push _ _
  | escx _ he hd h2 h1 hm =>
    rw [he, framePushes_malformed hd h2 h1 hm]
    exact ((pushed_push _ _).trans (pushed_push _ _)).of_eq rfl rfl rfl
  | eof => exact (pushed_flushEsc s).of_eq rfl rfl rfl

/-- Every byte taken in a frame is performed, and pushes what its row says. -/
theorem exec_rxInstr_pushes (s : State) (b : Byte) (hf : s.fsm = .inframe) :
    ∃ t, exec (s.rxInstr (.byte b)) s = .next t ∧ s.Pushed t (framePushes s.esc b) := by
  obtain ⟨t, ht, heff⟩ := exec_rx s (.byte b)
  exact ⟨t, ht, heff.pushed_framePushes hf⟩

theorem delim_notMem_pendingMarker (e : Bool) : Config.delim ∉ pendingMarker e := by
  cases e <;> decide

/-- Only the second half of 7D 02 makes a payload byte 0x7E (R142). -/
theorem delim_notMem_framePushes {e : Bool} {b : Byte} (h : ¬ (e = true ∧ b = Config.escDelim)) :
    Config.delim ∉ framePushes e b := by
  unfold framePushes
  split_ifs with hd he h2
  · exact delim_notMem_pendingMarker e
  · exact absurd ⟨he, h2⟩ h
  · decide
  · simpa using Ne.symm hd
  · decide
  · simpa using Ne.symm hd

/-- Only a malformed escape pushes two bytes (R145). -/
theorem framePushes_length_le {e : Bool} {b : Byte} (h : decodeInframe e b ≠ .escx b) :
    (framePushes e b).length ≤ 1 := by
  unfold framePushes
  split_ifs with hd he h2 h1m
  · cases e <;> decide
  · exact Nat.le_refl 1
  · exact Nat.le_refl 1
  · obtain ⟨h1, hm⟩ := not_or.mp h1m
    exact absurd (he ▸ decodeInframe_malformed hd h2 h1 hm) h
  · exact Nat.zero_le 1
  · exact Nat.le_refl 1

/-- Settles O14: the two rows of R95, one push each, and the row-by-row account of all other pushes. -/
theorem escapePairsPushOneByte : Obligations.EscapePairsPushOneByte := by
  intro s
  obtain ⟨-, -, hpending, -⟩ := receiveRowsSelectOperations s
  refine ⟨fun hf he => ?row02, fun hf he => ?row01, ⟨_, rfl, pushAll_setEsc s [0x7E] false⟩,
    ⟨_, rfl, pushAll_setEsc s [0x7D] false⟩, fun b hf hne => ?others⟩
  case row02 =>
    obtain ⟨hesc02, -⟩ := hpending hf he
    exact hesc02
  case row01 =>
    obtain ⟨-, hesc01, -⟩ := hpending hf he
    exact hesc01
  case others =>
    obtain ⟨t, ht, hp⟩ := exec_rxInstr_pushes s b hf
    refine ⟨t, _, ht, hp, delim_notMem_framePushes ?_⟩
    rintro ⟨he, rfl⟩
    obtain ⟨hesc02, -⟩ := hpending hf he
    exact hne hesc02

/-- Settles O16: the default row of R95, its two pushes, and the row-by-row account of all other pushes. -/
theorem malformedEscapePushesBothBytes : Obligations.MalformedEscapePushesBothBytes := by
  intro s b
  obtain ⟨-, -, hpending, -⟩ := receiveRowsSelectOperations s
  refine ⟨fun hf he => ?row, ⟨_, rfl, pushAll_setEsc s [0x7D, b] false⟩, fun hf hne => ?others⟩
  case row =>
    obtain ⟨-, -, -, hescx, -⟩ := hpending hf he
    exact hescx b
  case others =>
    obtain ⟨t, ht, hp⟩ := exec_rxInstr_pushes s b hf
    rw [rxInstr_of_inframe b hf rfl] at hne
    exact ⟨t, _, ht, hp, framePushes_length_le hne⟩

/-! ### The two functions over sequences -/

/-- `Unescape(Escape(X)) = X` (R155): the encoder's bytes for each byte are read back whatever follows. -/
theorem unescape_escape (x : List Byte) : unescape (escape x) = x := by
  induction x with
  | nil => rfl
  | cons b x ih => rw [escape_cons, unescape_encByte, ih]

theorem encByte_literal {b : Byte} (hd : b ≠ Config.delim) (hm : b ≠ Config.escMark) : encByte b = [b] := by
  rw [encByte, if_neg hd, if_neg hm]

/-- Neither function changes a sequence without delimiter and marker (R155). -/
theorem escape_unescape_literal {x : List Byte} (h : ∀ b ∈ x, b ≠ 0x7E ∧ b ≠ 0x7D) :
    escape x = x ∧ unescape x = x := by
  induction x with
  | nil => exact ⟨rfl, rfl⟩
  | cons b x ih =>
    obtain ⟨⟨hd, hm⟩, hx⟩ := List.forall_mem_cons.mp h
    obtain ⟨hescape, hunescape⟩ := ih hx
    constructor
    · rw [escape_cons, encByte_literal hd hm, hescape, List.singleton_append]
    · rw [unescape_cons b x hm, hunescape]

/-- Settles O41: the two laws by induction on the sequence, the counterexamples by evaluation. -/
theorem unescapeUndoesEscape : Obligations.UnescapeUndoesEscape :=
  ⟨unescape_escape, fun _ => escape_unescape_literal, by decide, by decide, by decide⟩

/-- A marker at the end opens no escape and completes none, so it is copied (R140). -/
theorem unescape_concat_marker (x : List Byte) : unescape (x ++ [0x7D]) = unescape x ++ [0x7D] := by
  induction x using unescape.induct with
  | case1 => rfl
  | case2 c =>
    by_cases hc : c = 0x7D
    · subst hc; rfl
    · exact unescape_cons c [0x7D] hc
  | case3 c d rest h ih =>
    obtain ⟨rfl, rfl⟩ := h
    simp only [List.cons_append, unescape_delim, ih]
  | case4 c d rest _ h ih =>
    obtain ⟨rfl, rfl⟩ := h
    simp only [List.cons_append, unescape_marker, ih]
  | case5 c d rest hdelim hself ih =>
    simp only [List.cons_append] at ih ⊢
    simp only [unescape, hdelim, hself, if_false, ih, List.cons_append]

/-! ### The streaming decoder -/

@[simp] theorem unescape_pendingMarker (e : Bool) : unescape (pendingMarker e) = pendingMarker e := by
  cases e <;> rfl

/-- One byte of content, seen by `Unescape`: what is pushed comes first, and whatever follows is decoded
behind the marker that is then pending (R147). -/
theorem unescape_pending_cons (e : Bool) {b : Byte} (hd : b ≠ Config.delim) (l : List Byte) :
    unescape (pendingMarker e ++ b :: l) =
      framePushes e b ++ unescape (pendingMarker (decide (b = Config.escMark)) ++ l) := by
  by_cases hm : b = Config.escMark
  · subst hm
    cases e with
    | false => rfl
    | true => exact unescape_lone 0x7D l (by decide) (by decide)
  · rw [decide_eq_false hm, pendingMarker_false, List.nil_append]
    cases e with
    | false => rw [framePushes_literal hd hm]; exact unescape_cons b l hm
    | true =>
      by_cases h2 : b = Config.escDelim
      · subst h2; exact unescape_delim l
      · by_cases h1 : b = Config.escSelf
        · subst h1; exact unescape_marker l
        · rw [framePushes_malformed hd h2 h1 hm]
          calc unescape (0x7D :: b :: l)
              = 0x7D :: unescape (b :: l) := unescape_lone b l h1 h2
            _ = 0x7D :: b :: unescape l := by rw [unescape_cons b l hm]

/-- The content bytes `c` bring the unit from `s` to `t` within a frame: what has been pushed, and the marker
then pending, are `Unescape` of the pending marker and `c`, whatever follows (R147). -/
structure State.Decoded (s t : State) (c : List Byte) : Prop where
  fsm : t.fsm = .inframe
  evt : t.evt = s.evt
  cfg : t.cfg = s.cfg
  pushed : ∃ vs, s.Pushed t vs ∧
    ∀ l, unescape (pendingMarker s.esc ++ (c ++ l)) = vs ++ unescape (pendingMarker t.esc ++ l)
  /-- A marker is pending exactly when it was the last byte taken. -/
  pending : t.esc = true ↔ (pendingMarker s.esc ++ c).getLast? = some Config.escMark

theorem State.Decoded.nil {s : State} (hf : s.fsm = .inframe) : s.Decoded s [] where
  fsm := hf
  evt := rfl
  cfg := rfl
  pushed := ⟨[], pushed_nil s s rfl rfl rfl, fun _ => rfl⟩
  pending := by cases s.esc <;> simp

theorem State.Decoded.trans {s t u : State} {c d : List Byte} (h : s.Decoded t c) (h' : t.Decoded u d) :
    s.Decoded u (c ++ d) where
  fsm := h'.fsm
  evt := h'.evt.trans h.evt
  cfg := h'.cfg.trans h.cfg
  pushed := by
    obtain ⟨vs, hvs, hc⟩ := h.pushed
    obtain ⟨ws, hws, hd⟩ := h'.pushed
    refine ⟨vs ++ ws, hvs.trans hws, fun l => ?_⟩
    rw [List.append_assoc c, hc, hd, List.append_assoc]
  pending := by
    rw [h'.pending]
    cases d using List.reverseRecOn with
    | nil => rw [List.append_nil, List.append_nil, ← h.pending]; cases t.esc <;> simp
    | append_singleton d b => simp only [← List.append_assoc, List.getLast?_concat]

/-- In a frame `esc` says after each byte whether that byte was the marker (R141 to R145). -/
theorem RxEffect.esc_eq {s t : State} {b : Byte} (h : RxEffect s (.byte b) t) (hf : s.fsm = .inframe)
    (hd : b ≠ Config.delim) : t.esc = decide (b = Config.escMark) := by
  cases h with
  | skip hh | sof hh => simp [hf] at hh
  | data _ he _ hm => rw [push_esc, he, decide_eq_false hm]
  | escx _ _ _ _ _ hm => rw [decide_eq_false hm]
  | esc | esc02 | esc01 => rfl
  | esc7d _ he => exact he
  | eof => exact absurd rfl hd

/-- `fsm` stays INFRAME until a delimiter (`42_framer.md` R171). -/
theorem RxEffect.fsm_of_content {s t : State} {b : Byte} (h : RxEffect s (.byte b) t)
    (hf : s.fsm = .inframe) (hd : b ≠ Config.delim) : t.fsm = .inframe := by
  cases h with
  | skip | data | esc | esc02 | esc01 | esc7d | escx => exact hf
  | sof | eof => exact absurd rfl hd

/-- One byte of content is decoded. -/
theorem RxEffect.decoded {s t : State} {b : Byte} (h : RxEffect s (.byte b) t) (hf : s.fsm = .inframe)
    (hd : b ≠ Config.delim) : s.Decoded t [b] where
  fsm := h.fsm_of_content hf hd
  evt := h.evt_eq fun ⟨_, hdelim⟩ => hd (by simpa using hdelim)
  cfg := h.cfg_eq
  pushed := by
    refine ⟨_, h.pushed_framePushes hf, fun l => ?_⟩
    rw [h.esc_eq hf hd]
    exact unescape_pending_cons s.esc hd l
  pending := by rw [h.esc_eq hf hd, List.getLast?_concat]; simp

/-- What a decoding started from depends on the state without its ports. -/
theorem State.Decoded.of_took {s t : State} {c : List Byte} {rest : List Input} {a : Bool}
    (h : (s.took rest a).Decoded t c) : s.Decoded t c := { h with }

/-- Content without a delimiter, taken in a frame, is decoded byte by byte (R147). -/
theorem core_run_content {s : State} {c : List (Byte × Bool)} {rest : List Input} (hf : s.fsm = .inframe)
    (hc : ∀ p ∈ c, p.1 ≠ 0x7E) (hi : s.inputs = c.map (fun p => Input.rx (.byte p.1) p.2) ++ rest) :
    ∃ t : State, Sys2Proof.core.run c.length s = .next t ∧ t.inputs = rest ∧
      s.Decoded t (c.map Prod.fst) := by
  induction c generalizing s with
  | nil => exact ⟨s, core_run_zero s, hi, .nil hf⟩
  | cons p c ih =>
    obtain ⟨hp, hc'⟩ := List.forall_mem_cons.mp hc
    obtain ⟨u, hu, heff⟩ := step_rx_effect hi
    have hfirst : s.Decoded u [p.1] := (heff.decoded hf hp).of_took
    obtain ⟨t, ht, hrest, hdec⟩ := ih hfirst.fsm hc' heff.inputs_eq
    exact ⟨t, by rw [List.length_cons, core_run_succ _ hu, ht], hrest, hfirst.trans hdec⟩

/-- What a content decoded from `esc` 0 has pushed, with the marker then pending behind it, is `Unescape` of
the content. -/
theorem State.Decoded.pushed_append_pending {s t : State} {c : List Byte} (h : s.Decoded t c)
    (he : s.esc = false) : ∃ vs, s.Pushed t vs ∧ unescape c = vs ++ pendingMarker t.esc := by
  obtain ⟨vs, hvs, hc⟩ := h.pushed
  exact ⟨vs, hvs, by simpa [he] using hc []⟩

/-- After the pending push the payload is `Unescape` of the whole content (R146, R147). -/
theorem State.Decoded.pushed_flushEsc {s t : State} {c : List Byte} (h : s.Decoded t c)
    (he : s.esc = false) : s.Pushed t.flushEsc (unescape c) := by
  obtain ⟨vs, hvs, hc⟩ := h.pushed_append_pending he
  exact hc ▸ hvs.trans (Machine.pushed_flushEsc t)

/-- With no marker pending the payload is `Unescape` of the whole content. -/
theorem State.Decoded.pushed_of_clear {s t : State} {c : List Byte} (h : s.Decoded t c)
    (he : s.esc = false) (ht : t.esc = false) : s.Pushed t (unescape c) := by
  rw [← flushEsc_of_clear t ht]
  exact h.pushed_flushEsc he

/-- A pending marker was the last byte, and the payload is `Unescape` of the content before it. -/
theorem State.Decoded.pushed_of_set {s t : State} {c : List Byte} (h : s.Decoded t c)
    (he : s.esc = false) (ht : t.esc = true) :
    c.getLast? = some 0x7D ∧ s.Pushed t (unescape c.dropLast) := by
  have hlast : c.getLast? = some 0x7D := by simpa [he] using h.pending.mp ht
  refine ⟨hlast, ?_⟩
  obtain ⟨vs, hvs, hc⟩ := h.pushed_append_pending he
  have hsplit : unescape c.dropLast ++ [0x7D] = vs ++ [0x7D] := by
    rw [← unescape_concat_marker, List.dropLast_append_getLast? _ hlast, hc, ht, pendingMarker_true]
  exact List.append_cancel_right hsplit ▸ hvs

/-- Settles O45: the run decodes the content, read in the three cases of the pending marker. -/
theorem streamingDecoderIsUnescape : Obligations.StreamingDecoderIsUnescape := by
  intro s c hf he hc hi
  obtain ⟨t, ht, -, hdec⟩ := core_run_content (rest := []) hf hc (by simpa using hi)
  exact ⟨t, ht, hdec.fsm, hdec.evt, hdec.pushed_of_clear he, hdec.pushed_of_set he, hdec.pushed_flushEsc he⟩

/-! ### The encoder, and what the two paths leave to one another -/

/-- Settles O38: each operation is one use of `State.putEncoded`. -/
theorem encoderPutsOutOneOrTwoBytes : Obligations.EncoderPutsOutOneOrTwoBytes :=
  fun _ _ => ⟨rfl, rfl, rfl⟩

/-- No operation of the receive path writes an output of the transmit units (`41_escape_codec.md` R150,
`46_frame_builder.md` R290). -/
theorem RxEffect.transmit_eq {s t : State} {ev : RxEvent} (h : RxEffect s ev t) :
    t.txo = s.txo ∧ t.enc = s.enc := by
  cases h with
  | skip | sof | esc => exact ⟨rfl, rfl⟩
  | data | esc02 | esc01 | esc7d | escx | eof | close | reset => simp

/-- A request that is not refused puts its frame on TXO and does nothing else (R292). -/
theorem execTxFrame_next {s t : State} {r : TxRequest} (h : execTxFrame r s = .next t) :
    ∃ bytes, t = s.transmit bytes := by
  unfold execTxFrame at h
  cases hb : buildFrame r with
  | ok bytes => rw [hb] at h; cases h; exact ⟨bytes, rfl⟩
  | error e => rw [hb] at h; cases h

/-- Settles O56, by the unit that takes the input: each transmit unit writes its own output, and the receive path
neither. -/
theorem transmitAndReceiveShareNothing : Obligations.TransmitAndReceiveShareNothing := by
  intro s t h
  refine ⟨fun b rest hi => ?encoder, fun r rest hi => ?builder, fun ev a rest hi => ?receiver⟩
  case encoder =>
    rw [step_txByte hi, exec_decodeTx] at h
    cases h
    rfl
  case builder =>
    rw [step_txFrame hi] at h
    obtain ⟨bytes, rfl⟩ := execTxFrame_next h
    rfl
  case receiver =>
    obtain ⟨t', ht', he⟩ := step_rx_effect hi
    obtain rfl : t' = t := by simpa [ht'] using h
    exact he.transmit_eq

end Sys2Proof.Machine

/-! SUPPORT. The statements of `42_framer.md`: the framer's operations, what a completed frame puts out against the
unbounded checks of the source software, and the unit over a whole stream against `Split`. -/

namespace Sys2Proof.Machine

/-! ### The framer's operations -/

/-- The state SOF leaves (`42_framer.md` R173). -/
def State.openFrame (s : State) : State :=
  { s with fsm := .inframe, esc := false, len := 0, xacc := 0x00 }

theorem exec_sof (s : State) : exec .sof s = .next s.openFrame := rfl

theorem exec_eof (s : State) : exec .eof s = .next (s.flushEsc.finishFrame s.flushEsc.verdict) := rfl

/-- Settles O9: the default row of HUNT, and an operation that answers its state. -/
theorem skipChangesNothing : Obligations.SkipChangesNothing := by
  intro s b
  exact ⟨fun hf hb => by rw [rxInstr_of_hunt b hf, decodeHunt_of_ne hb], rfl⟩

/-- Settles O10: the delimiter's row in HUNT, and the four registers SOF writes. -/
theorem sofOpensAFrame : Obligations.SofOpensAFrame := by
  intro s
  exact ⟨fun hf => by rw [rxInstr_of_hunt _ hf]; rfl, exec_sof s⟩

/-- Settles O12: the default row of INFRAME, and one push. -/
theorem dataPushesItsByte : Obligations.DataPushesItsByte := by
  intro s b
  refine ⟨fun hf he hm hd => ?_, s.pushAll [b], rfl, pushesAdvanceThePayload s [b]⟩
  rw [rxInstr_of_inframe b hf he, decodeInframe_literal hd hm]

/-- No port but EVT is written when a frame completes (R175). -/
theorem samePorts_finishFrame_flushEsc (s : State) (o : EvtOut) : s.SamePorts (s.flushEsc.finishFrame o) := by
  simp [State.SamePorts]

/-- Settles O17: the pending marker's push, then the end of the frame around its verdict. -/
theorem eofCompletesTheFrame : Obligations.EofCompletesTheFrame := by
  intro s
  refine ⟨fun hf => by rw [rxInstr_of_inframe _ hf rfl]; rfl, _, exec_eof s, (pushed_flushEsc s).of_eq rfl rfl rfl,
    finishFrame_fsm _ _, by simp, samePorts_finishFrame_flushEsc s _, ?_⟩
  rw [finishFrame_evt, flushEsc_evt]
  rfl

/-- CLOSE and RESET write no port (R183, R184). -/
theorem samePorts_toHunt (s : State) : s.SamePorts s.toHunt := ⟨rfl, rfl, rfl, rfl, rfl⟩

/-- Settles O18: both events run `State.toHunt`. -/
theorem closeAndResetReturnToHunt : Obligations.CloseAndResetReturnToHunt := by
  intro s
  exact ⟨rfl, rfl, ⟨s.toHunt, rfl, rfl, rfl, rfl, rfl, rfl, samePorts_toHunt s⟩,
    ⟨s.toHunt, rfl, rfl, rfl, rfl, rfl, rfl, samePorts_toHunt s⟩⟩

/-! ### The transitions of `fsm` -/

/-- A delimiter turns the one state into the other (`42_framer.md` R171). -/
theorem RxEffect.fsm_of_delim {s t : State} (h : RxEffect s (.byte Config.delim) t) :
    (s.fsm = .hunt → t.fsm = .inframe) ∧ (s.fsm = .inframe → t.fsm = .hunt) := by
  cases h with
  | sof hf | eof hf => simp [hf]
  | skip _ hb | data _ _ hb | escx _ _ hb => exact absurd rfl hb

/-- `Close` and `Reset` lead to HUNT from either state (R171). -/
theorem RxEffect.fsm_of_event {s t : State} {ev : RxEvent} (h : RxEffect s ev t)
    (hev : ev = .close ∨ ev = .reset) : t.fsm = .hunt := by
  cases h with
  | close | reset => rfl
  | skip | sof | data | esc | esc02 | esc01 | esc7d | escx | eof => simp at hev

/-- Any byte but the delimiter leaves `fsm` as it is (R171). -/
theorem RxEffect.fsm_eq {s t : State} {b : Byte} (h : RxEffect s (.byte b) t) (hd : b ≠ Config.delim) :
    t.fsm = s.fsm := by
  cases h with
  | skip | data | esc | esc02 | esc01 | esc7d | escx => rfl
  | sof | eof => exact absurd rfl hd

/-- What a step with an event at RX answered is the effect of its operation. -/
theorem rxEffect_of_step {s t : State} {ev : RxEvent} {a : Bool} {rest : List Input}
    (hi : s.inputs = .rx ev a :: rest) (h : step s = .next t) : RxEffect (s.took rest a) ev t := by
  obtain ⟨t', ht', he⟩ := step_rx_effect hi
  obtain rfl : t' = t := by simpa [ht'] using h
  exact he

/-- Settles O54: the two rows of the delimiter, the two events, and every other kind of step. -/
theorem fsmChangesOnlyAsListed : Obligations.FsmChangesOnlyAsListed := by
  intro s t h
  refine ⟨fun a rest hi => (rxEffect_of_step hi h).fsm_of_delim,
    fun ev a rest hi hev => (rxEffect_of_step hi h).fsm_of_event hev, fun hother => ?_⟩
  cases step_cases h with
  | idle _ ht | txByte _ ht | txFrame _ _ ht => subst ht; rfl
  | rx hi he =>
    obtain ⟨b, rfl, hb⟩ := hother _ _ _ hi
    exact he.fsm_eq hb

/-! ### The steps that take a delimiter -/

section Delimiter
variable {s : State} {a : Bool} {rest : List Input}

/-- A delimiter taken in HUNT opens a frame (R173). -/
theorem step_delim_of_hunt (hf : s.fsm = .hunt) (hi : s.inputs = .rx (.byte 0x7E) a :: rest) :
    step s = .next (s.took rest a).openFrame := by
  rw [step_rx hi, rxInstr_of_hunt _ hf]
  rfl

/-- A delimiter taken in INFRAME completes the frame (R175). -/
theorem step_delim_of_inframe (hf : s.fsm = .inframe) (hi : s.inputs = .rx (.byte 0x7E) a :: rest) :
    step s = .next ((s.took rest a).flushEsc.finishFrame (s.took rest a).flushEsc.verdict) := by
  rw [step_rx hi, rxInstr_of_inframe _ hf rfl]
  rfl

end Delimiter

/-! ### The verdict on a completed frame -/

/-- A frame that passes the checks of R176 is dispatched, with the body its length field names
(`44_header.md` R227, `45_dispatch.md` R250). -/
theorem complete_of_checks_pass {cfg : Config.Params} {rd : Nat → Byte} {n : BitVec 11} {x : Byte} (a : Bool)
    (hn : 13 ≤ n.toNat) (hx : x = 0) (hflags : cfg.strictFlags = false ∨ (parseHeader rd).rsvd = 0)
    (hlen : (parseHeader rd).bodyLen.toNat = n.toNat - 13) :
    complete cfg rd n x a = dispatchOut cfg (selectMsg (parseHeader rd).messageId)
      { n := n, hdr := parseHeader rd, body := bytesAt rd Config.hdrLen (parseHeader rd).bodyLen.toNat
        authOk := a } := by
  have hempty : n ≠ 0 := by rintro rfl; simp at hn
  have hsum : ¬ (!csOk x) = true := by simp [csOk, hx]
  have hmin : ¬ n.toNat - 1 < Config.hdrLen := by have : Config.hdrLen = 12 := rfl; omega
  have hstrict : ¬ (cfg.strictFlags && !flagsZero (parseHeader rd).bodyProperties) = true := by
    rcases hflags with hoff | hzero
    · simp [hoff]
    · have : flagsZero (parseHeader rd).bodyProperties = true := beq_iff_eq.mpr hzero
      simp [this]
  unfold complete
  rw [if_neg hempty, if_neg hsum, if_neg hmin]
  dsimp only
  rw [if_neg hstrict, if_neg (not_not_intro hlen), hlen]

/-- Settles O26: with no marker pending EOF puts out the verdict, which is what the selected operation gives on the
operands the unit holds. -/
theorem endDelimiterRunsTheSelectedDispatch : Obligations.EndDelimiterRunsTheSelectedDispatch := by
  intro s a rest hf he hi hn hx hflags hlen
  refine ⟨_, exec_instrOfMsgOp _ (s.took rest a), ?_⟩
  have hflush : (s.took rest a).flushEsc = s.took rest a := flushEsc_of_clear _ he
  have hverdict : (s.took rest a).verdict =
      dispatchOut s.cfg (selectMsg s.frame.hdr.messageId) (s.took rest a).frame :=
    complete_of_checks_pass a hn hx hflags hlen
  rw [step_delim_of_inframe hf hi, hflush, hverdict]
  rfl

/-- The hardware's checksum test is the source's (`43_checksum.md` R201). -/
theorem xorBytes_eq_zero_iff {u : List Byte} (hu : u ≠ []) :
    xorBytes u = 0 ↔ u.getLast? = some (xorBytes u.dropLast) := by
  obtain ⟨c, b, rfl⟩ := List.eq_nil_or_concat u |>.resolve_left hu
  rw [List.concat_eq_append, xorBytes_append, xorBytes_singleton, xor_eq_zero, List.getLast?_concat,
    List.dropLast_concat, Option.some_inj, eq_comm]

/-- The body between header and checksum, read from the payload by address (`44_header.md` R227). -/
theorem bytesAt_body (u : List Byte) :
    bytesAt (fun i => u.getD i 0) Config.hdrLen (u.length - 13) = (u.drop Config.hdrLen).dropLast := by
  have hhd : Config.hdrLen = 12 := rfl
  refine List.ext_getElem (by simp [hhd]; omega) fun i hi _ => ?_
  rw [bytesAt_length] at hi
  have hlt : Config.hdrLen + i < u.length := by omega
  simp [bytesAt, hlt]

/-- `Complete` on what the unit holds of a payload `u` is the unbounded verdict on `u`: the saturated counter and
the bytes beyond `PB` make no difference (`44_header.md` R228). -/
theorem complete_eq_completePayload {cfg : Config.Params} {rd : Nat → Byte} {n : BitVec 11} {x : Byte}
    {u : List Byte} (a : Bool) (hn : n.toNat = min u.length 2047) (hx : x = xorBytes u)
    (hrd : ∀ i, i < u.length → i < Config.pbSize → rd i = u.getD i 0) :
    complete cfg rd n x a = completePayload cfg u a := by
  have hhd : Config.hdrLen = 12 := rfl
  have hnat : n = BitVec.ofNat 11 (min u.length 2047) := BitVec.eq_of_toNat_eq (by rw [hn]; simp; omega)
  have hempty : n = 0 ↔ u = [] := by
    rw [← BitVec.toNat_inj, hn, ← List.length_eq_zero_iff]
    simp
  have hmin : n.toNat - 1 < Config.hdrLen ↔ u.length - 1 < Config.hdrLen := by omega
  rw [complete_congr fun i hi hsize => hrd i (by omega) hsize]
  unfold complete completePayload
  simp only [← hnat, hempty, hmin]
  split
  · rfl
  rename_i hu
  have hsum : (!csOk x) = true ↔ u.getLast? ≠ some (xorBytes u.dropLast) := by
    rw [hx, Ne, ← xorBytes_eq_zero_iff hu]
    simp [csOk]
  simp only [hsum]
  split
  · rfl
  split
  · rfl
  generalize hh : parseHeader (fun i => u.getD i 0) = hdr
  have hflags : (cfg.strictFlags && !flagsZero hdr.bodyProperties) = true ↔
      cfg.strictFlags = true ∧ hdr.rsvd ≠ 0 := by
    subst hh
    simp [flagsZero, parseHeader]
  simp only [hflags]
  split
  · rfl
  have hbody : (u.drop Config.hdrLen).dropLast.length = u.length - 13 := by simp [hhd]; omega
  have hfield := hdr.bodyLen.isLt
  by_cases hlen : hdr.bodyLen.toNat = u.length - 13
  · have hfit : n.toNat - 13 = u.length - 13 := by omega
    rw [hfit, hbody, bytesAt_body]
  · rw [if_pos (by omega), if_pos (by rw [hbody]; exact hlen)]

/-- A unit that has pushed the payload `u` since SOF gives the unbounded verdict on `u`
(`42_framer.md` R185, `43_checksum.md` R201, `44_header.md` R228). -/
theorem State.Pushed.verdict_eq {s t : State} {u : List Byte} (h : s.Pushed t u) (hlen : s.len = 0)
    (hxacc : s.xacc = 0) : t.verdict = completePayload t.cfg u t.authOk := by
  obtain ⟨hl, hx, hpb⟩ := h
  refine complete_eq_completePayload _ (by simpa [hlen] using hl) (by simpa [hxacc] using hx) fun i hi hsize => ?_
  rw [hpb i, hlen, if_pos (by simpa using ⟨hi, hsize⟩)]
  simp

end Sys2Proof.Machine

/-! SUPPORT. The statements of section 4 of `42_framer.md`: the receive path over a whole stream. A stream is taken
apart at its delimiters, and each part is one run of the unit. -/

namespace Sys2Proof.Machine

/-! ### Chunking -/

/-- The unit with the inputs `ys` waiting behind those already there (`42_framer.md` R186). -/
def State.offer (s : State) (ys : List Input) : State := { s with inputs := s.inputs ++ ys }

/-- No operation of the receive path reads the inputs still waiting (R186). -/
theorem RxEffect.setInputs {s t : State} {ev : RxEvent} (h : RxEffect s ev t) (is : List Input) :
    RxEffect { s with inputs := is } ev { t with inputs := is } := by
  cases h with
  | skip hf hb => exact .skip hf hb
  | sof hf => exact .sof hf
  | data hf he hd hm => exact .data hf he hd hm
  | esc hf he => exact .esc hf he
  | esc02 hf he => exact .esc02 hf he
  | esc01 hf he => exact .esc01 hf he
  | esc7d hf he => exact .esc7d hf he
  | escx hf he hd h2 h1 hm => exact .escx hf he hd h2 h1 hm
  | eof hf =>
    have hflush : State.flushEsc { s with inputs := is } = { s.flushEsc with inputs := is } := by
      unfold State.flushEsc
      split <;> rfl
    have heof := RxEffect.eof (s := { s with inputs := is }) hf
    rw [hflush] at heof
    exact heof
  | close => exact .close
  | reset => exact .reset

/-- A step that takes an input does the same with further inputs waiting behind it (R186). -/
theorem step_offer {s t : State} {i : Input} {xs : List Input} (hi : s.inputs = i :: xs) (h : step s = .next t)
    (ys : List Input) : step (s.offer ys) = .next (t.offer ys) := by
  have hoffer : (s.offer ys).inputs = s.inputs ++ ys := rfl
  refine StepEffect.step_eq ?_
  cases step_cases h with
  | idle hnil => simp [hi] at hnil
  | @rx ev a rest hi he =>
    have hrest : t.inputs = rest := he.inputs_eq
    have hnext : t.offer ys = { t with inputs := rest ++ ys } := by rw [State.offer, hrest]
    exact .rx (by rw [hoffer, hi]; rfl) (hnext ▸ he.setInputs (rest ++ ys))
  | txByte hi ht => exact .txByte (by rw [hoffer, hi]; rfl) (by rw [ht]; rfl)
  | txFrame hi hb ht => exact .txFrame (by rw [hoffer, hi]; rfl) hb (by rw [ht]; rfl)

/-- A run over inputs that are waiting takes them all, and does the same with further inputs behind them. -/
theorem core_run_offer {s t : State} (ys : List Input)
    (h : Sys2Proof.core.run s.inputs.length s = .next t) :
    t.inputs = [] ∧ Sys2Proof.core.run s.inputs.length (s.offer ys) = .next (t.offer ys) := by
  induction hi : s.inputs generalizing s with
  | nil =>
    rw [hi] at h
    cases h
    exact ⟨hi, rfl⟩
  | cons i xs ih =>
    rw [hi] at h
    obtain ⟨u, hu, hrun⟩ := core_run_succ_inv h
    have hui : u.inputs = xs := by
      obtain ⟨htail, -⟩ := stepTakesOneInputAndKeepsParameters s u hu
      rw [htail, hi, List.tail_cons]
    obtain ⟨hnil, hoffer⟩ := ih (hui ▸ hrun) hui
    exact ⟨hnil, by rw [List.length_cons, core_run_succ _ (step_offer hi hu ys), hoffer]⟩

/-- Settles O47: the run over `xs` with `ys` offered behind, then the rest of the run. -/
theorem chunkingOfTheStreamIsInvisible : Obligations.ChunkingOfTheStreamIsInvisible := by
  intro s t xs ys h
  obtain ⟨hnil, hrun⟩ := core_run_offer (s := { s with inputs := xs }) ys h
  have hoffer : t.offer ys = { t with inputs := ys } := by rw [State.offer, hnil, List.nil_append]
  rw [← hoffer]
  exact core_run_append _ _ hrun

/-! ### The parts of a stream -/

/-- Bytes waiting at RX, each with the AUTH bit of the step that takes it. -/
def rxBytes (c : List (Byte × Bool)) : List Input := c.map fun p => .rx (.byte p.1) p.2

@[simp] theorem rxBytes_nil : rxBytes [] = [] := rfl

@[simp] theorem rxBytes_cons (p : Byte × Bool) (c : List (Byte × Bool)) :
    rxBytes (p :: c) = .rx (.byte p.1) p.2 :: rxBytes c := rfl

@[simp] theorem rxBytes_append (c d : List (Byte × Bool)) : rxBytes (c ++ d) = rxBytes c ++ rxBytes d :=
  List.map_append

section Parts
variable {s : State} {c : List (Byte × Bool)} {a : Bool} {rest : List Input}

/-- Bytes before a start delimiter are skipped one by one (R172). -/
theorem core_run_skipped (hf : s.fsm = .hunt) (hc : ∀ p ∈ c, p.1 ≠ 0x7E) (hi : s.inputs = rxBytes c ++ rest) :
    ∃ a, Sys2Proof.core.run c.length s = .next (s.took rest a) := by
  induction c generalizing s with
  | nil =>
    obtain rfl : s.inputs = rest := hi
    exact ⟨s.authOk, rfl⟩
  | cons p c ih =>
    obtain ⟨hp, hc'⟩ := List.forall_mem_cons.mp hc
    have hstep : step s = .next (s.took (rxBytes c ++ rest) p.2) := by
      rw [step_rx hi, rxInstr_of_hunt _ hf, decodeHunt_of_ne hp]
      rfl
    obtain ⟨a, ha⟩ := ih (s := s.took (rxBytes c ++ rest) p.2) hf hc' rfl
    exact ⟨a, by rw [List.length_cons, core_run_succ _ hstep, ha]; rfl⟩

/-- The first delimiter of a stream opens a frame (R173). -/
theorem core_run_openFrame (hf : s.fsm = .hunt) (hc : ∀ p ∈ c, p.1 ≠ 0x7E)
    (hi : s.inputs = rxBytes c ++ .rx (.byte 0x7E) a :: rest) :
    Sys2Proof.core.run (c.length + 1) s = .next (s.took rest a).openFrame := by
  obtain ⟨a', hskip⟩ := core_run_skipped hf hc hi
  exact (core_run_append _ _ hskip).trans (core_run_succ 0 (step_delim_of_hunt hf rfl))

/-- The content of an open frame and its end delimiter put out the unbounded verdict on the content
(R175, R185). -/
theorem core_run_closeFrame (hi : s.inputs = rxBytes c ++ .rx (.byte 0x7E) a :: rest)
    (hc : ∀ p ∈ c, p.1 ≠ 0x7E) :
    ∃ t : State, Sys2Proof.core.run (c.length + 1) s.openFrame = .next t ∧ t.inputs = rest ∧ t.fsm = .hunt ∧
      t.cfg = s.cfg ∧ t.evt = s.evt ++ [completePayload s.cfg (unescape (c.map Prod.fst)) a] := by
  obtain ⟨u, hu, hrest, hdec⟩ := core_run_content (s := s.openFrame) rfl hc hi
  have hpushed : s.openFrame.Pushed (u.took rest a).flushEsc (unescape (c.map Prod.fst)) := by
    have hdec' : s.openFrame.Decoded (u.took rest a) (c.map Prod.fst) := { hdec with }
    exact hdec'.pushed_flushEsc rfl
  have hverdict := hpushed.verdict_eq rfl rfl
  have hcfg : u.cfg = s.cfg := hdec.cfg
  have hevt : u.evt = s.evt := hdec.evt
  have hlast := core_run_succ 0 (step_delim_of_inframe hdec.fsm hrest)
  exact ⟨_, (core_run_append _ _ hu).trans hlast, by simp, by simp, by simp [hcfg], by simp [hverdict, hevt, hcfg]⟩

/-- One RawFrame of the stream, with the bytes skipped before it (R170, R185). -/
theorem core_run_frame {skipped : List (Byte × Bool)} {a' : Bool} (hf : s.fsm = .hunt)
    (hskipped : ∀ p ∈ skipped, p.1 ≠ 0x7E) (hc : ∀ p ∈ c, p.1 ≠ 0x7E)
    (hi : s.inputs = rxBytes skipped ++ .rx (.byte 0x7E) a' :: (rxBytes c ++ .rx (.byte 0x7E) a :: rest)) :
    ∃ t : State, Sys2Proof.core.run (skipped.length + 1 + (c.length + 1)) s = .next t ∧ t.inputs = rest ∧
      t.fsm = .hunt ∧ t.cfg = s.cfg ∧
      t.evt = s.evt ++ [completePayload s.cfg (unescape (c.map Prod.fst)) a] := by
  rw [core_run_append _ _ (core_run_openFrame hf hskipped hi)]
  exact core_run_closeFrame rfl hc

end Parts

/-- Settles O48: a frame with no content. -/
theorem adjacentDelimitersAreAnEmptyFrame : Obligations.AdjacentDelimitersAreAnEmptyFrame := by
  intro s a a' rest hf hi
  obtain ⟨t, hrun, hrest, hfsm, -, hevt⟩ :=
    core_run_frame (skipped := []) (c := []) hf (by simp) (by simp) hi
  exact ⟨t, hrun, hfsm, hrest, hevt⟩

/-- Settles O49: the first two delimiters are a frame; the bytes after it are skipped up to the third, which opens
another. -/
theorem delimitersAreNeverShared : Obligations.DelimitersAreNeverShared := by
  intro s xs ys a hf hxs hys hi
  have hfree : ∀ l : List Byte, (0x7E : Byte) ∉ l → ∀ p ∈ l.map (·, a), p.1 ≠ 0x7E := by
    intro l hl p hp
    obtain ⟨b, hb, rfl⟩ := List.mem_map.mp hp
    exact ne_of_mem_of_not_mem hb hl
  have hparts : s.inputs = rxBytes [] ++ .rx (.byte 0x7E) a :: (rxBytes (xs.map (·, a)) ++
      .rx (.byte 0x7E) a :: (rxBytes (ys.map (·, a)) ++ [.rx (.byte 0x7E) a])) := by
    simp [hi, rxBytes, Function.comp_def]
  have hlength : s.inputs.length =
      (([] : List (Byte × Bool)).length + 1 + ((xs.map (·, a)).length + 1)) + ((ys.map (·, a)).length + 1) := by
    simp [hi]
    omega
  obtain ⟨u, hrun, hrest, hfsm, -, hevt⟩ := core_run_frame hf (by simp) (hfree xs hxs) hparts
  refine ⟨(u.took [] a).openFrame, ?_, ?_, rfl, rfl, rfl, rfl⟩
  · rw [hlength, core_run_append _ _ hrun]
    exact core_run_openFrame hfsm (hfree ys hys) hrest
  · have hmap : (xs.map (·, a)).map Prod.fst = xs := by simp [Function.comp_def]
    rw [hmap] at hevt
    exact hevt

/-! ### `Split` -/

section Split
variable {α : Type} {key : α → Byte}

/-- What one turn of `Split`'s loop finds in the buffer: no delimiter, one without a partner, or a RawFrame
(`42_framer.md` R170). -/
inductive SplitTurn (key : α → Byte) : List α → Prop where
  | free {buf} : (∀ x ∈ buf, key x ≠ Config.delim) → SplitTurn key buf
  | unpaired {skipped d c} : (∀ x ∈ skipped, key x ≠ Config.delim) → key d = Config.delim →
      (∀ x ∈ c, key x ≠ Config.delim) → SplitTurn key (skipped ++ d :: c)
  | paired {skipped d c e rest} : (∀ x ∈ skipped, key x ≠ Config.delim) → key d = Config.delim →
      (∀ x ∈ c, key x ≠ Config.delim) → key e = Config.delim → SplitTurn key (skipped ++ d :: (c ++ e :: rest))

/-- A buffer is free of delimiters or is cut at the first. -/
theorem free_or_cut_at_delim (key : α → Byte) (buf : List α) :
    (∀ x ∈ buf, key x ≠ Config.delim) ∨
    ∃ c d rest, buf = c ++ d :: rest ∧ (∀ x ∈ c, key x ≠ Config.delim) ∧ key d = Config.delim := by
  cases h : buf.find? (fun x => key x == Config.delim) with
  | none => exact .inl (by simpa using h)
  | some d =>
    obtain ⟨hd, c, rest, hbuf, hc⟩ := List.find?_eq_some_iff_append.mp h
    exact .inr ⟨c, d, rest, hbuf, by simpa using hc, by simpa using hd⟩

theorem splitTurn (key : α → Byte) (buf : List α) : SplitTurn key buf := by
  obtain hfree | ⟨skipped, d, tail, rfl, hskipped, hd⟩ := free_or_cut_at_delim key buf
  · exact .free hfree
  · obtain hfree | ⟨c, e, rest, rfl, hc, he⟩ := free_or_cut_at_delim key tail
    · exact .unpaired hskipped hd hfree
    · exact .paired hskipped hd hc he

theorem dropWhile_of_free {buf : List α} (h : ∀ x ∈ buf, key x ≠ Config.delim) :
    buf.dropWhile (fun x => key x != Config.delim) = [] :=
  List.dropWhile_eq_nil_iff.mpr (by simpa using h)

theorem dropWhile_at_delim {c rest : List α} {d : α} (h : ∀ x ∈ c, key x ≠ Config.delim)
    (hd : key d = Config.delim) :
    (c ++ d :: rest).dropWhile (fun x => key x != Config.delim) = d :: rest := by
  rw [List.dropWhile_append_of_pos (by simpa using h), List.dropWhile_cons_of_neg (by simp [hd])]

theorem takeWhile_at_delim {c rest : List α} {d : α} (h : ∀ x ∈ c, key x ≠ Config.delim)
    (hd : key d = Config.delim) :
    (c ++ d :: rest).takeWhile (fun x => key x != Config.delim) = c := by
  rw [List.takeWhile_append_of_pos (by simpa using h), List.takeWhile_cons_of_neg (by simp [hd]), List.append_nil]

/-- A buffer without a delimiter yields no RawFrame and stays. -/
theorem splitFuel_of_free (fuel : Nat) {buf : List α} (h : ∀ x ∈ buf, key x ≠ Config.delim) :
    splitFuel key fuel buf = ([], buf) := by
  cases fuel with
  | zero => rfl
  | succ fuel => simp only [splitFuel, dropWhile_of_free h]

/-- A delimiter without a partner stays in the buffer (R187). -/
theorem splitFuel_of_unpaired (fuel : Nat) {skipped c : List α} {d : α}
    (hskipped : ∀ x ∈ skipped, key x ≠ Config.delim) (hd : key d = Config.delim)
    (hc : ∀ x ∈ c, key x ≠ Config.delim) :
    splitFuel key fuel (skipped ++ d :: c) = ([], skipped ++ d :: c) := by
  cases fuel with
  | zero => rfl
  | succ fuel => simp only [splitFuel, dropWhile_at_delim hskipped hd, dropWhile_of_free hc]

/-- A pair of delimiters is a RawFrame, and `Split` goes on behind it. -/
theorem splitFuel_of_paired (fuel : Nat) {skipped c rest : List α} {d e : α}
    (hskipped : ∀ x ∈ skipped, key x ≠ Config.delim) (hd : key d = Config.delim)
    (hc : ∀ x ∈ c, key x ≠ Config.delim) (he : key e = Config.delim) :
    splitFuel key (fuel + 1) (skipped ++ d :: (c ++ e :: rest)) =
      ((d :: (c ++ [e])) :: (splitFuel key fuel rest).1, (splitFuel key fuel rest).2) := by
  simp only [splitFuel, dropWhile_at_delim hskipped hd, dropWhile_at_delim hc he, takeWhile_at_delim hc he]

end Split

/-- The verdict on a RawFrame is the one on its content, with the AUTH bit of its end delimiter
(`45_dispatch.md` R265). -/
theorem frameVerdict_eq (cfg : Config.Params) (d e : Byte × Bool) (c : List (Byte × Bool)) :
    frameVerdict cfg (d :: (c ++ [e])) = completePayload cfg (unescape (c.map Prod.fst)) e.2 := by
  have hinside : frameInside (d :: (c ++ [e])) = c := by simp [frameInside]
  have hlast : (d :: (c ++ [e])).getLast? = some e := List.getLast?_concat (l := d :: c)
  simp [frameVerdict, hinside, hlast]

/-- The receive path and `Split` go through a stream turn by turn (R185). -/
theorem core_run_splitFuel (fuel : Nat) {s : State} {stream : List (Byte × Bool)} (hfuel : stream.length ≤ fuel)
    (hf : s.fsm = .hunt) (hi : s.inputs = rxBytes stream) :
    ∃ t : State, Sys2Proof.core.run stream.length s = .next t ∧
      t.evt = s.evt ++ (splitFuel Prod.fst fuel stream).1.map (frameVerdict s.cfg) ∧
      (t.fsm = .inframe ↔ ∃ p ∈ (splitFuel Prod.fst fuel stream).2, p.1 = 0x7E) := by
  induction fuel generalizing s stream with
  | zero =>
    obtain rfl : stream = [] := List.length_eq_zero_iff.mp (Nat.le_zero.mp hfuel)
    exact ⟨s, rfl, by simp [splitFuel], by simp [splitFuel, hf]⟩
  | succ fuel ih =>
    cases splitTurn Prod.fst stream with
    | free hfree =>
      obtain ⟨a, hrun⟩ := core_run_skipped (rest := []) hf hfree (by simpa using hi)
      rw [splitFuel_of_free _ hfree]
      exact ⟨_, hrun, by simp, iff_of_false (by simp [hf]) fun ⟨p, hp, hd⟩ => hfree p hp hd⟩
    | @unpaired skipped d c hskipped hd hc =>
      have hi' : s.inputs = rxBytes skipped ++ .rx (.byte 0x7E) d.2 :: rxBytes c := by
        rw [hi, rxBytes_append, rxBytes_cons, hd]
      obtain ⟨t, hrun, -, hdec⟩ := core_run_content (s := (s.took (rxBytes c) d.2).openFrame) (rest := []) rfl hc
        (List.append_nil _).symm
      have hevt : t.evt = s.evt := hdec.evt
      refine ⟨t, ?_, ?_, ?_⟩
      · rw [List.length_append, List.length_cons, ← Nat.add_assoc, Nat.add_right_comm,
          core_run_append _ _ (core_run_openFrame hf hskipped hi'), hrun]
      · simp [splitFuel_of_unpaired _ hskipped hd hc, hevt]
      · rw [splitFuel_of_unpaired _ hskipped hd hc]
        exact iff_of_true hdec.fsm ⟨d, by simp, hd⟩
    | @paired skipped d c e rest hskipped hd hc he =>
      have hi' : s.inputs = rxBytes skipped ++
          .rx (.byte 0x7E) d.2 :: (rxBytes c ++ .rx (.byte 0x7E) e.2 :: rxBytes rest) := by
        rw [hi, rxBytes_append, rxBytes_cons, rxBytes_append, rxBytes_cons, hd, he]
      have hlength : (skipped ++ d :: (c ++ e :: rest)).length =
          skipped.length + 1 + (c.length + 1) + rest.length := by
        simp only [List.length_append, List.length_cons]
        omega
      obtain ⟨u, hframe, hrest, hhunt, hcfg, hevt⟩ := core_run_frame hf hskipped hc hi'
      obtain ⟨t, hrun, hevts, hfsm⟩ := ih (s := u) (stream := rest) (by omega) hhunt hrest
      rw [splitFuel_of_paired fuel hskipped hd hc he]
      refine ⟨t, by rw [hlength, core_run_append _ _ hframe, hrun], ?_, hfsm⟩
      rw [hevts, hevt, hcfg, List.map_cons, frameVerdict_eq, List.append_assoc, List.singleton_append]

/-- Settles O46: `Split` bounds its loop by the length of the stream. -/
theorem streamingReceiverIsSplitAndCheck : Obligations.StreamingReceiverIsSplitAndCheck :=
  fun _ stream hf hi => core_run_splitFuel stream.length (Nat.le_refl _) hf hi

end Sys2Proof.Machine

/-! SUPPORT. The statements of `43_checksum.md`: the exclusive-or over all bytes against the checksum in the last one,
and the checksum of a built frame. -/

namespace Sys2Proof.Machine

/-- Settles O24: the exclusive-or over all bytes is that of the bytes before the last one, combined with the last one,
and it is 0 exactly when the two are equal. -/
theorem zeroFoldIsChecksumMatch : Obligations.ZeroFoldIsChecksumMatch :=
  fun _ hu => xorBytes_eq_zero_iff hu

theorem frameInside_delimited {α : Type} (d e : α) (c : List α) : frameInside ([d] ++ c ++ [e]) = c := by
  simp [frameInside]

/-- The content of a built frame reads back as the payload it was built from (`41_escape_codec.md` R155,
`46_frame_builder.md` R292). -/
theorem unescape_frameInside_of_buildFrame_ok {r : TxRequest} {bytes : List Byte} (h : buildFrame r = .ok bytes) :
    unescape (frameInside bytes) =
      framePayload r.msgId (BitVec.ofNat 16 r.body.length) r.tid6 r.serial r.body := by
  obtain ⟨-, rfl⟩ := buildFrame_ok h
  rw [frameInside_delimited, unescape_escape]

/-- The builder closes its payload with the exclusive-or of the bytes before (`43_checksum.md` R205). -/
theorem framePayload_getLast? (msgId props : Word16) (tid : TermId) (serial : Word16) (body : List Byte) :
    (framePayload msgId props tid serial body).getLast? =
      some (xorBytes (framePayload msgId props tid serial body).dropLast) := by
  unfold framePayload
  rw [List.getLast?_concat, List.dropLast_concat]

/-- Settles O43: unescaping gives back the payload, and the payload ends in its checksum. -/
theorem builtFramesEndInTheirChecksum : Obligations.BuiltFramesEndInTheirChecksum := by
  intro r bytes hbuild
  rw [unescape_frameInside_of_buildFrame_ok hbuild]
  exact framePayload_getLast? ..

end Sys2Proof.Machine

/-! SUPPORT. The statements of `44_header.md`: the fields of the header as numbers of the payload bytes, the operands
a unit holds, and what `Complete` answers at each check and for a payload that did not fit. -/

namespace Sys2Proof.Machine

/-! ### The fields of the header -/

section Fields
variable (rd : Nat → Byte)

/-- A two-byte field is its bytes, the first the more significant; 16 bits hold it (`30_encoding.md` R86). -/
theorem ofNat_memRead_two_toNat (a : Nat) :
    (BitVec.ofNat 16 (memRead rd a 2)).toNat = (rd a).toNat * 256 + (rd (a + 1)).toNat := by
  have hhi := (rd a).isLt
  have hlo := (rd (a + 1)).isLt
  rw [memRead_two, BitVec.toNat_ofNat, Nat.mod_eq_of_lt (by omega)]

theorem parseHeader_messageId_toNat :
    (parseHeader rd).messageId.toNat = (rd 0).toNat * 256 + (rd 1).toNat := ofNat_memRead_two_toNat rd 0

theorem parseHeader_bodyProperties_toNat :
    (parseHeader rd).bodyProperties.toNat = (rd 2).toNat * 256 + (rd 3).toNat := ofNat_memRead_two_toNat rd 2

theorem parseHeader_serialNumber_toNat :
    (parseHeader rd).serialNumber.toNat = (rd 10).toNat * 256 + (rd 11).toNat := ofNat_memRead_two_toNat rd 10

/-- Bits 9:0 of `bodyProperties` (`44_header.md` R221). -/
theorem parseHeader_bodyLen_toNat :
    (parseHeader rd).bodyLen.toNat = (parseHeader rd).bodyProperties.toNat % 1024 :=
  BitVec.extractLsb'_toNat ..

/-- Bits 15:10 of `bodyProperties` (`44_header.md` R221). -/
theorem parseHeader_rsvd_toNat :
    (parseHeader rd).rsvd.toNat = (parseHeader rd).bodyProperties.toNat / 1024 := by
  have hprops := (parseHeader rd).bodyProperties.isLt
  calc (parseHeader rd).rsvd.toNat
      = ((parseHeader rd).bodyProperties.toNat >>> 10) % 2 ^ 6 := BitVec.extractLsb'_toNat ..
    _ = (parseHeader rd).bodyProperties.toNat / 1024 := by rw [Nat.shiftRight_eq_div_pow]; omega

end Fields

/-- Settles O20: the three two-byte fields, and the two parts of `bodyProperties` as remainder and quotient by 1024;
`PB[3]` lies wholly in the first. -/
theorem headerFieldsAreBigEndian : Obligations.HeaderFieldsAreBigEndian := by
  intro rd
  have hprops := parseHeader_bodyProperties_toNat rd
  have hlo := (rd 3).isLt
  refine ⟨parseHeader_messageId_toNat rd, hprops, ?bodyLen, ?rsvd, parseHeader_serialNumber_toNat rd, rfl⟩
  case bodyLen =>
    rw [parseHeader_bodyLen_toNat, hprops]
    omega
  case rsvd =>
    rw [parseHeader_rsvd_toNat, hprops]
    omega

/-! ### The operands a unit holds -/

@[simp] theorem frame_hdr (s : State) : s.frame.hdr = parseHeader (readPb s.pb) := rfl
@[simp] theorem frame_n (s : State) : s.frame.n = s.len := rfl
@[simp] theorem frame_authOk (s : State) : s.frame.authOk = s.authOk := rfl

/-- The body is the span of `PB` that the length field names (`44_header.md` R227). -/
theorem frame_body (s : State) :
    s.frame.body = bytesAt (readPb s.pb) Config.hdrLen s.frame.hdr.bodyLen.toNat := rfl

@[simp] theorem frame_body_length (s : State) : s.frame.body.length = s.frame.hdr.bodyLen.toNat := by
  rw [frame_body, bytesAt_length]

/-- Settles O33: the body is as long as a 10-bit field says, so header and body end at or before `PB[1034]`. -/
theorem dispatchOperandsLieInTheBuffer : Obligations.DispatchOperandsLieInTheBuffer := by
  intro s
  refine ⟨frame_hdr s, frame_body_length s, ?bound, fun i hi => ?bytes, frame_authOk s, frame_n s⟩
  case bound =>
    have hfield := s.frame.hdr.bodyLen.isLt
    rw [frame_body_length]
    omega
  case bytes =>
    rw [frame_body_length] at hi
    rw [frame_body, bytesAt_getElem? _ _ _ _ hi]

/-! ### The checks of `Complete` -/

section Checks
variable {cfg : Config.Params} {rd : Nat → Byte} {n : BitVec 11} {x : Byte} {a : Bool}

/-- A payload of any length whose bytes do not fold to 0 (`43_checksum.md` R201). -/
theorem complete_of_checksum_fails (hn : n ≠ 0) (hx : x ≠ 0) :
    complete cfg rd n x a = raiseDiscard .checksum n none := by
  have hsum : (!csOk x) = true := by simpa [csOk] using hx
  rw [complete, if_neg hn, if_pos hsum]

/-- The checks that are left once the header is parsed (`44_header.md` R225, R226). -/
theorem complete_of_header_parsed (hn : 13 ≤ n.toNat) (hx : x = 0) :
    complete cfg rd n x a =
      if cfg.strictFlags = true ∧ (parseHeader rd).rsvd ≠ 0 then raiseDiscard .flags n (some (parseHeader rd))
      else if (parseHeader rd).bodyLen.toNat ≠ n.toNat - 13 then
        raiseDiscard .lenMismatch n (some (parseHeader rd))
      else dispatchOut cfg (selectMsg (parseHeader rd).messageId)
        { n := n, hdr := parseHeader rd, body := bytesAt rd Config.hdrLen (n.toNat - 13), authOk := a } := by
  have hempty : n ≠ 0 := by rintro rfl; simp at hn
  have hsum : ¬ (!csOk x) = true := by simp [csOk, hx]
  have hmin : ¬ n.toNat - 1 < Config.hdrLen := by have : Config.hdrLen = 12 := rfl; omega
  have hstrict : (cfg.strictFlags && !flagsZero (parseHeader rd).bodyProperties) = true ↔
      cfg.strictFlags = true ∧ (parseHeader rd).rsvd ≠ 0 := by simp [flagsZero, parseHeader]
  rw [complete, if_neg hempty, if_neg hsum, if_neg hmin]
  simp only [hstrict]

/-- Past the checksum, a payload beyond `PB` fails for its flags or for its length: the 10-bit field declares at most
1023 bytes (`44_header.md` R228). -/
theorem complete_of_overlong (hn : 1037 ≤ n.toNat) (hx : x = 0) :
    ∃ r, complete cfg rd n x a = raiseDiscard r n (some (parseHeader rd)) ∧ (r = .flags ∨ r = .lenMismatch) := by
  rw [complete_of_header_parsed (by omega) hx]
  by_cases hflags : cfg.strictFlags = true ∧ (parseHeader rd).rsvd ≠ 0
  · exact ⟨.flags, if_pos hflags, .inl rfl⟩
  · have hfield := (parseHeader rd).bodyLen.isLt
    have hlen : (parseHeader rd).bodyLen.toNat ≠ n.toNat - 13 := by omega
    exact ⟨.lenMismatch, by rw [if_neg hflags, if_pos hlen], .inr rfl⟩

end Checks

/-- A discard says that a payload beyond `PB` did not fit (`60_exceptions.md` R312). -/
theorem raiseDiscard_of_overlong {n : BitVec 11} (hn : 1037 ≤ n.toNat) (r : DiscardReason) (hdr : Option Header) :
    raiseDiscard r n hdr = .discard { reason := r, n := n, ovf := true, hdr := hdr } := by
  have hovf : ovf n = true := decide_eq_true hn
  rw [raiseDiscard, hovf]

/-- Settles O23: the checksum fails, or the flags or the length do. -/
theorem overlongPayloadsAreDiscarded : Obligations.OverlongPayloadsAreDiscarded := by
  intro cfg rd n x a hn
  by_cases hx : x = 0
  · obtain ⟨r, hout, hr⟩ := complete_of_overlong (cfg := cfg) (rd := rd) (a := a) hn hx
    exact ⟨_, hout.trans (raiseDiscard_of_overlong hn r _), rfl, rfl, .inr hr⟩
  · have hempty : n ≠ 0 := by rintro rfl; simp at hn
    exact ⟨_, (complete_of_checksum_fails hempty hx).trans (raiseDiscard_of_overlong hn _ _), rfl, rfl, .inl rfl⟩

end Sys2Proof.Machine

/-! SUPPORT. The statements of `45_dispatch.md`: which operation reads the authorization bit, the two answers of a
dispatch operation, and the registration fields as a partition of the body. -/

namespace Sys2Proof.Machine

/-! ### The authorization bit -/

/-- Without REGISTER's own row no row of the message table answers it (`30_encoding.md` R97). -/
theorem selectMsg_ne_register {id : Word16} (h : id ≠ 0x0100) : selectMsg id ≠ .register := by
  unfold selectMsg
  rw [if_neg h]
  split_ifs <;> nofun

/-- REGISTER alone reads `auth_ok` (`45_dispatch.md` R265). -/
theorem dispatchOut_authOk {op : MsgOp} (h : op ≠ .register) (cfg : Config.Params) (f : Frame) (a : Bool) :
    dispatchOut cfg op { f with authOk := a } = dispatchOut cfg op f := by
  cases op with
  | register => exact absurd rfl h
  | termAck | heartbeat | auth | location | text | ctrlResp | passthru | timesync | unrecognized => rfl

/-- Settles O25: `Complete` hands `auth_ok` to the selected operation and to nothing else. -/
theorem onlyRegistrationReadsAuthorization : Obligations.OnlyRegistrationReadsAuthorization := by
  intro cfg rd n x a a' hid
  have hdispatch := dispatchOut_authOk (selectMsg_ne_register hid) cfg
    { n := n, hdr := parseHeader rd, body := bytesAt rd Config.hdrLen (n.toNat - 13), authOk := a' } a
  unfold complete
  dsimp only at hdispatch ⊢
  rw [hdispatch]

/-! ### The two answers of a dispatch operation -/

section Answers
variable {s : State} {op : MsgOp}

/-- A body of at least the operation's minimum: its event, and no other change (R258). -/
theorem exec_of_minBody_le {e : Event}
    (hop : dispatchOut s.cfg op s.frame = withMinBody (minBody s.cfg op) s.frame e)
    (hlen : minBody s.cfg op ≤ s.frame.body.length) :
    exec (instrOfMsgOp op) s = .next (s.emit (.event e)) := by
  rw [exec_instrOfMsgOp, hop, withMinBody_of_le hlen]

/-- A shorter body: `Discard(DECODE_FAIL)` with the header, and no other change (R258). -/
theorem exec_of_lt_minBody (hlen : s.frame.body.length < minBody s.cfg op) :
    exec (instrOfMsgOp op) s = .next (s.emit (raiseDiscard .decodeFail s.len (some s.frame.hdr))) := by
  rw [exec_instrOfMsgOp, dispatchOut_of_short _ _ _ hlen, frame_n]

end Answers

/-- Settles O27: the four operations have no minimum body. -/
theorem acknowledgedKindsAnswerUniversalOk : Obligations.AcknowledgedKindsAnswerUniversalOk := by
  rintro s i k (hauth | hheartbeat | htext | hctrlResp)
  · cases hauth
    exact exec_of_minBody_le (op := .auth) rfl (Nat.zero_le _)
  · cases hheartbeat
    exact exec_of_minBody_le (op := .heartbeat) rfl (Nat.zero_le _)
  · cases htext
    exact exec_of_minBody_le (op := .text) rfl (Nat.zero_le _)
  · cases hctrlResp
    exact exec_of_minBody_le (op := .ctrlResp) rfl (Nat.zero_le _)

/-- Settles O28: UNRECOGNIZED has no minimum body, whatever the id. -/
theorem unrecognizedAnswersResultThree : Obligations.UnrecognizedAnswersResultThree :=
  fun _ id => exec_of_minBody_le (op := .unrecognized id) rfl (Nat.zero_le _)

/-- Settles O29: TERM_ACK has no minimum body. -/
theorem terminalAckGetsNoResponse : Obligations.TerminalAckGetsNoResponse :=
  fun _ => exec_of_minBody_le (op := .termAck) rfl (Nat.zero_le _)

/-- Settles O30: TIMESYNC has no minimum body. -/
theorem timesyncAnswersResultOne : Obligations.TimesyncAnswersResultOne :=
  fun _ => exec_of_minBody_le (op := .timesync) rfl (Nat.zero_le _)

/-- Settles O31: the two sides of the minimum, for either operation. -/
theorem minimumBodyGuardsPassthruAndLocation : Obligations.MinimumBodyGuardsPassthruAndLocation := by
  rintro s i k m (hpassthru | hlocation)
  · cases hpassthru
    exact ⟨exec_of_minBody_le (op := .passthru) rfl, exec_of_lt_minBody (op := .passthru)⟩
  · cases hlocation
    exact ⟨exec_of_minBody_le (op := .location) rfl, exec_of_lt_minBody (op := .location)⟩

/-! ### The registration fields -/

section Slices
variable {body : List Byte} {i j : Nat}

theorem slice_length (hj : j < body.length) : (slice body i j).length = j + 1 - i := by
  rw [slice, List.length_take, List.length_drop]
  omega

/-- `s[i..j]` and what comes after it (`00_scope.md` R7). -/
theorem slice_append_drop (body : List Byte) (hij : i ≤ j + 1) :
    slice body i j ++ body.drop (j + 1) = body.drop i := by
  have hrest : (body.drop i).drop (j + 1 - i) = body.drop (j + 1) := by
    rw [List.drop_drop, Nat.add_sub_cancel' hij]
  rw [slice, ← hrest, List.take_append_drop]

/-- One byte and what comes after it. -/
theorem getD_cons_drop (hi : i < body.length) : body.getD i 0 :: body.drop (i + 1) = body.drop i := by
  rw [List.drop_eq_getElem_cons hi, List.getD_eq_getElem _ _ hi]

/-- A two-byte field is the two bytes it is read from (`00_scope.md` R8, `20_memory.md` R55). -/
theorem bytesOfWord_be16 (body : List Byte) (i : Nat) :
    bytesOfWord (be16 body i) = [body.getD i 0, body.getD (i + 1) 0] := by
  rw [be16, memRead_two]
  exact bytesOfWord_be16OfBytes _ _

/-- A two-byte field and what comes after it. -/
theorem bytesOfWord_be16_append_drop (hi : i + 1 < body.length) :
    bytesOfWord (be16 body i) ++ body.drop (i + 2) = body.drop i := by
  rw [bytesOfWord_be16, List.cons_append, List.singleton_append, getD_cons_drop hi,
    getD_cons_drop (Nat.lt_of_succ_lt hi)]

end Slices

/-- The fields in their order are the whole body (`45_dispatch.md` R254): each joins what comes after it, from the last
to the first. -/
theorem regFields_partition {body : List Byte} (hlen : 37 ≤ body.length) :
    bytesOfWord (regFields body).province ++ bytesOfWord (regFields body).city ++ (regFields body).manufacturerId ++
      (regFields body).terminalModel ++ (regFields body).regTerminalId ++ [(regFields body).plateColor] ++
      (regFields body).vin = body := by
  simp only [regFields, List.append_assoc, List.singleton_append]
  rw [getD_cons_drop (by omega), slice_append_drop body (by omega), slice_append_drop body (by omega),
    slice_append_drop body (by omega), bytesOfWord_be16_append_drop (by omega),
    bytesOfWord_be16_append_drop (by omega), List.drop_zero]

/-- Settles O32: the two sides of the minimum, and the partition of the body. -/
theorem registrationSlicesItsBody : Obligations.RegistrationSlicesItsBody := by
  intro s
  exact ⟨fun hlen => ⟨regFields s.frame.body, exec_of_minBody_le (op := .register) rfl hlen,
    regFields_partition hlen, slice_length (by omega), slice_length (by omega), slice_length (by omega)⟩,
    exec_of_lt_minBody (op := .register)⟩

end Sys2Proof.Machine

/-! SUPPORT. The statements of `46_frame_builder.md`: the builder's two answers, when a step is refused, and a built
frame taken by the receive path. -/

namespace Sys2Proof.Machine

/-! ### The two answers of the builder -/

section Answers
variable {r : TxRequest}

/-- The payload of the frame a request asks for (R292). -/
def TxRequest.payload (r : TxRequest) : List Byte :=
  framePayload r.msgId (BitVec.ofNat 16 r.body.length) r.tid6 r.serial r.body

/-- A body of at most 1023 bytes is framed (R292). -/
theorem buildFrame_of_le (h : r.body.length ≤ 1023) :
    buildFrame r = .ok ([0x7E] ++ escape r.payload ++ [0x7E]) := if_pos h

/-- A longer body is refused (R293). -/
theorem buildFrame_of_lt (h : 1023 < r.body.length) : buildFrame r = .error .bodyTooLong :=
  if_neg (Nat.not_le.mpr h)

/-- A request that is framed puts its bytes on TXO and changes nothing else but the input taken (R292). -/
theorem step_txFrame_of_ok {s : State} {bytes : List Byte} {rest : List Input}
    (hi : s.inputs = .txFrame r :: rest) (hb : buildFrame r = .ok bytes) :
    step s = .next { s with inputs := rest, txo := s.txo ++ [bytes] } :=
  StepEffect.step_eq (.txFrame hi hb rfl)

/-- A request over 1023 bytes is refused (R293). -/
theorem step_txFrame_of_long {s : State} {rest : List Input} (hi : s.inputs = .txFrame r :: rest)
    (hlong : 1023 < r.body.length) : step s = .refused .bodyTooLong :=
  step_refused_iff.mpr ⟨r, rest, hi, buildFrame_of_lt hlong⟩

@[simp] theorem payload_length : r.payload.length = r.body.length + 13 := by
  simp [TxRequest.payload, framePayload]

/-- The builder closes its payload with the checksum, so all its bytes fold to 0 (`43_checksum.md` R201, R205). -/
theorem xorBytes_payload : xorBytes r.payload = 0 := by
  have hne : r.payload ≠ [] := List.ne_nil_of_length_pos (by simp)
  exact (xorBytes_eq_zero_iff hne).mpr (framePayload_getLast? ..)

end Answers

/-- The only input the hardware does not take is a request over 1023 bytes (R293). -/
theorem admissible_eq_false_iff {i : Input} :
    i.admissible = false ↔ ∃ r, i = .txFrame r ∧ 1023 < r.body.length := by
  cases i with
  | rx | txByte => simp [Input.admissible]
  | txFrame r => simp [Input.admissible, Config.bodyMax]

/-- Settles O51: an admissible input, or none, is taken; the one inadmissible kind is refused. -/
theorem stepRefusesOnlyLongBodies : Obligations.StepRefusesOnlyLongBodies := by
  intro s
  refine ⟨step_next_of_admissible, ?_⟩
  rintro ⟨i, hhead, hadm⟩
  obtain ⟨r, rfl, hlong⟩ := admissible_eq_false_iff.mp hadm
  obtain ⟨rest, hi⟩ := List.head?_eq_some_iff.mp hhead
  exact step_txFrame_of_long hi hlong

/-! ### The bytes of a built frame -/

/-- A length as a two-byte field: quotient and remainder by 256 (`20_memory.md` R55). -/
theorem bytesOfWord_ofNat (n : Nat) :
    bytesOfWord (BitVec.ofNat 16 n) = [BitVec.ofNat 8 (n / 256), BitVec.ofNat 8 (n % 256)] := by
  have hhi : (BitVec.ofNat 16 n).extractLsb' 8 8 = BitVec.ofNat 8 (n / 256) := by
    apply BitVec.eq_of_toNat_eq
    rw [BitVec.extractLsb'_toNat, BitVec.toNat_ofNat, BitVec.toNat_ofNat, Nat.shiftRight_eq_div_pow]
    omega
  have hlo : (BitVec.ofNat 16 n).extractLsb' 0 8 = BitVec.ofNat 8 (n % 256) := by
    apply BitVec.eq_of_toNat_eq
    rw [BitVec.extractLsb'_toNat, BitVec.toNat_ofNat, BitVec.toNat_ofNat, Nat.shiftRight_zero]
    omega
  rw [bytesOfWord, hhi, hlo]

/-- Each byte is escaped to one or two bytes (`41_escape_codec.md` R154). -/
theorem escape_length_bounds (x : List Byte) :
    x.length ≤ (escape x).length ∧ (escape x).length ≤ 2 * x.length := by
  induction x with
  | nil => exact ⟨Nat.le_refl 0, Nat.le_refl 0⟩
  | cons b x ih =>
    obtain ⟨-, hlow, hhigh⟩ := encByte_shape b
    rw [escape_cons, List.length_append, List.length_cons]
    omega

/-- No byte is escaped to the delimiter (R154). -/
theorem delim_notMem_escape (x : List Byte) : (0x7E : Byte) ∉ escape x := by
  rw [escape, List.mem_flatMap]
  rintro ⟨b, -, hb⟩
  obtain ⟨hfree, -⟩ := encByte_shape b
  exact hfree hb

/-- Settles O42: the two answers of the builder; the length field of the header is written out byte by byte. -/
theorem builderFramesOrRefuses : Obligations.BuilderFramesOrRefuses := by
  intro s r rest hi
  refine ⟨fun hlen => ?framed, step_txFrame_of_long hi⟩
  intro c out
  have hpayload : r.payload = c ++ [xorBytes c] := by
    simp only [TxRequest.payload, framePayload, frameContent, bytesOfWord_ofNat]
    rfl
  have hout : out = [0x7E] ++ escape r.payload ++ [0x7E] := by rw [hpayload]
  have hlength : out.length = (escape r.payload).length + 2 := by simp [hout]
  obtain ⟨hlow, hhigh⟩ := escape_length_bounds r.payload
  rw [payload_length] at hlow hhigh
  exact ⟨step_txFrame_of_ok hi (hout ▸ buildFrame_of_le hlen), by omega, by omega⟩

/-! ### What the receiver reads out of a built payload -/

section Received
variable {r : TxRequest}

/-- The header of a built frame, field by field: those of the request, the length of its body, and reserved bits 0
(R294). -/
def TxRequest.header (r : TxRequest) : Header where
  messageId := r.msgId
  bodyProperties := BitVec.ofNat 16 r.body.length
  bodyLen := BitVec.ofNat 10 r.body.length
  rsvd := 0
  tid6 := r.tid6
  tidStr := bcdString r.tid6.bytes
  tidBcdOk := tidBcdOk r.tid6
  serialNumber := r.serial

/-- `ParseHeader` reads back the header of a built payload: each two-byte field is the one its bytes were taken from
(`20_memory.md` R55), and a length of at most 1023 leaves the upper six bits of its field 0 (R293). -/
theorem parseHeader_payload (h : r.body.length ≤ 1023) :
    parseHeader (fun i => r.payload.getD i 0) = r.header := by
  have hword (v : Word16) :
      BitVec.ofNat 16 ((v.extractLsb' 8 8).toNat * 256 + (v.extractLsb' 0 8).toNat) = v :=
    be16OfBytes_bytesOfWord v
  have hbodyLen : (BitVec.ofNat 16 r.body.length).extractLsb' 0 10 = BitVec.ofNat 10 r.body.length := by
    apply BitVec.eq_of_toNat_eq
    rw [BitVec.extractLsb'_toNat, BitVec.toNat_ofNat, BitVec.toNat_ofNat, Nat.shiftRight_zero]
    omega
  have hrsvd : (BitVec.ofNat 16 r.body.length).extractLsb' 10 6 = 0 := by
    apply BitVec.eq_of_toNat_eq
    rw [BitVec.extractLsb'_toNat, BitVec.toNat_ofNat, Nat.shiftRight_eq_div_pow]
    simp only [BitVec.toNat_zero, BitVec.ofNat_eq_ofNat]
    omega
  simp only [TxRequest.header, TxRequest.payload, parseHeader, termIdAt, memRead_two, framePayload, frameContent,
    bytesOfWord, TermId.bytes, List.cons_append, List.nil_append, List.getD_cons_zero, List.getD_cons_succ, hword,
    hbodyLen, hrsvd]

/-- The body of a built payload stands between header and checksum (`44_header.md` R227). -/
theorem payload_body : (r.payload.drop Config.hdrLen).dropLast = r.body :=
  List.dropLast_concat (l₁ := r.body)

/-- The operands a dispatch operation finds once the frame of the request has been received (R294). -/
def TxRequest.received (r : TxRequest) (a : Bool) : Frame where
  n := BitVec.ofNat 11 (r.body.length + 13)
  hdr := r.header
  body := r.body
  authOk := a

/-- A built payload passes every check, and the operation of its message id is dispatched (R294). -/
theorem completePayload_payload (cfg : Config.Params) (a : Bool) (h : r.body.length ≤ 1023) :
    completePayload cfg r.payload a = dispatchOut cfg (selectMsg r.msgId) (r.received a) := by
  have hempty : r.payload ≠ [] := List.ne_nil_of_length_pos (by simp)
  have hsum : r.payload.getLast? = some (xorBytes r.payload.dropLast) := framePayload_getLast? ..
  have hmin : ¬ r.payload.length - 1 < Config.hdrLen := by
    have : Config.hdrLen = 12 := rfl
    rw [payload_length]
    omega
  have hflags : ¬ (cfg.strictFlags = true ∧ r.header.rsvd ≠ 0) := fun ⟨_, hrsvd⟩ => hrsvd rfl
  have hbodyLen : r.header.bodyLen.toNat = r.body.length := Nat.mod_eq_of_lt (Nat.lt_succ_of_le h)
  have hn : min r.payload.length 2047 = r.body.length + 13 := by
    rw [payload_length]
    omega
  rw [completePayload, if_neg hempty, if_neg (not_not_intro hsum), if_neg hmin]
  simp only [parseHeader_payload h, payload_body, hn]
  rw [if_neg hflags, if_neg (not_not_intro hbodyLen)]
  rfl

end Received

/-! ### Loop-back -/

/-- What a completed frame leaves in the payload registers: the length of `Unescape` of its content, saturated, and the
exclusive-or of its bytes (`10_state.md` R30, `41_escape_codec.md` R147). -/
theorem len_xacc_of_core_run_frame {s t : State} {c : List (Byte × Bool)} {a a' : Bool} {rest : List Input}
    (hf : s.fsm = .hunt) (hc : ∀ p ∈ c, p.1 ≠ 0x7E)
    (hi : s.inputs = .rx (.byte 0x7E) a' :: (rxBytes c ++ .rx (.byte 0x7E) a :: rest))
    (hrun : Sys2Proof.core.run (c.length + 2) s = .next t) :
    t.len.toNat = min (unescape (c.map Prod.fst)).length 2047 ∧ t.xacc = xorBytes (unescape (c.map Prod.fst)) := by
  obtain ⟨u, hu, hrest, hdec⟩ := core_run_content
    (s := (s.took (rxBytes c ++ .rx (.byte 0x7E) a :: rest) a').openFrame) rfl hc rfl
  have hdec' : s.openFrame.Decoded (u.took rest a) (c.map Prod.fst) := { hdec with }
  have hlast := core_run_succ 0 (step_delim_of_inframe hdec.fsm hrest)
  rw [core_run_succ _ (step_delim_of_hunt hf hi), core_run_append _ _ hu, hlast] at hrun
  cases hrun
  obtain ⟨hlen, hxacc, -⟩ := hdec'.pushed_flushEsc rfl
  exact ⟨hlen.trans (by simp [State.openFrame]), hxacc.trans (by simp [State.openFrame])⟩

/-- What a built frame has between its delimiters, with one AUTH bit beside all its bytes. -/
def TxRequest.content (r : TxRequest) (a : Bool) : List (Byte × Bool) := (escape r.payload).map (·, a)

section Content
variable (r : TxRequest) (a : Bool)

theorem content_ne_delim : ∀ p ∈ r.content a, p.1 ≠ 0x7E := by
  intro p hp
  obtain ⟨b, hb, rfl⟩ := List.mem_map.mp hp
  exact ne_of_mem_of_not_mem hb (delim_notMem_escape r.payload)

/-- The content reads back as the payload (`41_escape_codec.md` R155). -/
theorem unescape_content : unescape ((r.content a).map Prod.fst) = r.payload := by
  rw [TxRequest.content, List.map_map, Function.comp_def, List.map_id', unescape_escape]

@[simp] theorem content_length : (r.content a).length = (escape r.payload).length := List.length_map _

@[simp] theorem rxBytes_content :
    rxBytes (r.content a) = (escape r.payload).map (fun b => Input.rx (.byte b) a) := List.map_map

end Content

/-- Settles O44: the content reads back as the payload the frame was built from, which is what the unit then holds and
what it has put out the verdict on. -/
theorem builtFramesLoopBack : Obligations.BuiltFramesLoopBack := by
  intro s r bytes a rest hf hbuild hi
  obtain ⟨hlen, rfl⟩ : r.body.length ≤ 1023 ∧ bytes = [0x7E] ++ escape r.payload ++ [0x7E] := buildFrame_ok hbuild
  have hparts : s.inputs = .rx (.byte 0x7E) a :: (rxBytes (r.content a) ++ .rx (.byte 0x7E) a :: rest) := by
    simp [hi]
  have hlength : ([0x7E] ++ escape r.payload ++ [0x7E]).length = (r.content a).length + 2 := by simp
  obtain ⟨t, hrun, hrest, hfsm, -, hevt⟩ := core_run_frame (skipped := []) hf (by simp) (content_ne_delim r a) hparts
  rw [List.length_nil, Nat.zero_add, Nat.add_comm 1, Nat.add_assoc] at hrun
  obtain ⟨htlen, htxacc⟩ := len_xacc_of_core_run_frame hf (content_ne_delim r a) hparts hrun
  rw [unescape_content, payload_length, Nat.min_eq_left (by omega)] at htlen
  rw [unescape_content, xorBytes_payload] at htxacc
  rw [unescape_content, completePayload_payload _ _ hlen] at hevt
  refine ⟨t, r.received a, hlength ▸ hrun, hrest, hfsm, htlen, htxacc, hevt, rfl, rfl, rfl, ?props, rfl, ?bodyLen,
    decodeBCD_of_le (Nat.le_refl 6), rfl, rfl, ?counter, rfl⟩
  case props => exact Nat.mod_eq_of_lt (by omega)
  case bodyLen => exact Nat.mod_eq_of_lt (by omega)
  case counter =>
    apply BitVec.eq_of_toNat_eq
    rw [htlen]
    exact Nat.mod_eq_of_lt (by omega)

end Sys2Proof.Machine

/-! SUPPORT. The statements of `30_encoding.md` that relate `decode` to `encode`, and the step that runs what has been
decoded: each row of the tables is read back from its bytes, and each word of a group is the encoding of the row it
selects. -/

namespace Sys2Proof.Machine

/-! ### The operations an input selects -/

section WellFormed
variable {b : Byte}

theorem wf_skip_iff : (Instr.skip b).wf = true ↔ b ≠ Config.delim := bne_iff_ne

theorem wf_data_iff : (Instr.data b).wf = true ↔ b ≠ Config.delim ∧ b ≠ Config.escMark := by
  simp [Instr.wf]

theorem wf_escx_iff : (Instr.escx b).wf = true ↔
    b ≠ Config.delim ∧ b ≠ Config.escMark ∧ b ≠ Config.escDelim ∧ b ≠ Config.escSelf := by
  simp [Instr.wf, and_assoc]

theorem wf_enclit_iff : (Instr.enclit b).wf = true ↔ b ≠ Config.delim ∧ b ≠ Config.escMark := by
  simp [Instr.wf]

theorem wf_unrecognized_iff {id : Word16} : (Instr.unrecognized id).wf = true ↔ id ∉ knownIds := by
  simp [Instr.wf]

end WellFormed

/-! ### Every encoding is read back -/

/-- A `messageId` is decoded by the row of R97 its two bytes select. -/
theorem decode_msgId (id : Word16) (rest : List Byte) :
    decode .msgId (bytesOfWord id ++ rest) = .ok (instrOfMsgOp (selectMsg id), rest) := by
  have hid := be16OfBytes_bytesOfWord id
  simp only [bytesOfWord, List.cons_append, List.nil_append, decode, hid]

/-- A row with fixed bytes is read off its table; a default row is selected by every byte, or id, that the
operation's well-formedness leaves it. -/
theorem decode_encode {i : Instr} (h : i.wf = true) (rest : List Byte) :
    decode (encode i).1 ((encode i).2 ++ rest) = .ok (i, rest) := by
  cases i with
  | sof | esc | esc02 | esc01 | esc7d | eof | close | reset | enc7e | enc7d => rfl
  | termAck | heartbeat | register | auth | location | text | ctrlResp | passthru | timesync => rfl
  | skip b => simp [encode, decode, decodeHunt_of_ne (wf_skip_iff.mp h)]
  | data b =>
    obtain ⟨hd, hm⟩ := wf_data_iff.mp h
    simp [encode, decode, decodeInframe_literal hd hm]
  | escx b =>
    obtain ⟨hd, hm, h2, h1⟩ := wf_escx_iff.mp h
    simp [encode, decode, decodeInframe_malformed hd h2 h1 hm]
  | enclit b =>
    obtain ⟨hd, hm⟩ := wf_enclit_iff.mp h
    simp [encode, decode, decodeTx_literal hd hm]
  | unrecognized id => rw [encode, decode_msgId, selectMsg_of_notMem_knownIds (wf_unrecognized_iff.mp h)]; rfl

/-- Settles O1: by the operation's row; the delimiter is EOF whatever `esc` is. -/
theorem decodeReadsBackEveryEncoding : Obligations.DecodeReadsBackEveryEncoding := by
  intro i rest h
  refine ⟨decode_encode h rest, ?_⟩
  rintro rfl esc
  rfl

/-! ### Every word is the encoding of the row it selects -/

theorem encode_decodeHunt (b : Byte) : (decodeHunt b).wf = true ∧ encode (decodeHunt b) = (.hunt, [b]) := by
  unfold decodeHunt
  split_ifs with hd
  · exact ⟨rfl, hd ▸ rfl⟩
  · exact ⟨wf_skip_iff.mpr hd, rfl⟩

/-- The delimiter alone is encoded in another group than it may have been read in: EOF stands in both groups of
INFRAME (R95). -/
theorem encode_decodeInframe (esc : Bool) (b : Byte) :
    (decodeInframe esc b).wf = true ∧ (encode (decodeInframe esc b)).2 = [b] ∧
      (.inframe esc = (encode (decodeInframe esc b)).1 ∨
        (decodeInframe esc b = .eof ∧ Group.inframe esc = .inframe false)) := by
  unfold decodeInframe
  cases esc with
  | true =>
    rw [if_pos rfl]
    split_ifs with hd h2 h1 hm
    · exact ⟨rfl, hd ▸ rfl, .inl rfl⟩
    · exact ⟨rfl, h2 ▸ rfl, .inl rfl⟩
    · exact ⟨rfl, h1 ▸ rfl, .inl rfl⟩
    · exact ⟨rfl, hm ▸ rfl, .inl rfl⟩
    · exact ⟨wf_escx_iff.mpr ⟨hd, hm, h2, h1⟩, rfl, .inl rfl⟩
  | false =>
    rw [if_neg Bool.false_ne_true]
    split_ifs with hd hm
    · exact ⟨rfl, hd ▸ rfl, .inr ⟨rfl, rfl⟩⟩
    · exact ⟨rfl, hm ▸ rfl, .inl rfl⟩
    · exact ⟨wf_data_iff.mpr ⟨hd, hm⟩, rfl, .inl rfl⟩

theorem encode_decodeTx (b : Byte) : (decodeTx b).wf = true ∧ encode (decodeTx b) = (.txByte, [b]) := by
  unfold decodeTx
  split_ifs with hd hm
  · exact ⟨rfl, hd ▸ rfl⟩
  · exact ⟨rfl, hm ▸ rfl⟩
  · exact ⟨wf_enclit_iff.mpr ⟨hd, hm⟩, rfl⟩

/-- Each of the nine listed ids is the encoding of its own row, any other id that of the default row (R97). -/
theorem encode_instrOfMsgOp_selectMsg (id : Word16) :
    (instrOfMsgOp (selectMsg id)).wf = true ∧
      encode (instrOfMsgOp (selectMsg id)) = (.msgId, bytesOfWord id) := by
  by_cases h : id ∈ knownIds
  · simp only [knownIds, List.mem_cons, List.not_mem_nil, or_false] at h
    obtain rfl | rfl | rfl | rfl | rfl | rfl | rfl | rfl | rfl := h <;> exact ⟨rfl, rfl⟩
  · rw [selectMsg_of_notMem_knownIds h]
    exact ⟨wf_unrecognized_iff.mpr h, rfl⟩

/-- Settles O2, by the group: the words of one byte, of none and of two. -/
theorem decodedBytesAreTheEncoding : Obligations.DecodedBytesAreTheEncoding := by
  intro g bytes rest i h
  match g, bytes with
  | .hunt, b :: _ =>
    cases h
    obtain ⟨hwf, henc⟩ := encode_decodeHunt b
    simp [hwf, henc]
  | .inframe esc, b :: _ =>
    cases h
    obtain ⟨hwf, henc, hgroup⟩ := encode_decodeInframe esc b
    exact ⟨hwf, by rw [henc]; rfl, hgroup⟩
  | .txByte, b :: _ =>
    cases h
    obtain ⟨hwf, henc⟩ := encode_decodeTx b
    simp [hwf, henc]
  | .closeEvent, _ | .resetEvent, _ => cases h; exact ⟨rfl, rfl, .inl rfl⟩
  | .msgId, hi :: lo :: _ =>
    cases h
    obtain ⟨hwf, henc⟩ := encode_instrOfMsgOp_selectMsg (be16OfBytes hi lo)
    simp [hwf, henc, bytesOfWord_be16OfBytes]
  | .hunt, [] | .inframe _, [] | .txByte, [] | .msgId, [] | .msgId, [_] => cases h

/-- Settles O6: each word is the encoding of its operation; the delimiter after no marker is EOF read in the group
`encode` does not name. -/
theorem writtenOutWordsDecode : Obligations.WrittenOutWordsDecode := by
  obtain ⟨-, heof⟩ := decodeReadsBackEveryEncoding .eof [] rfl
  exact ⟨decode_encode (i := .esc02) rfl [], decode_encode (i := .data 0x02) rfl [], decode_encode (i := .sof) rfl [],
    heof rfl false, decode_encode (i := .enc7d) rfl [], decode_encode (i := .timesync) rfl [],
    decode_encode (i := .unrecognized 0x8001) rfl []⟩

/-! ### The step -/

/-- The byte a unit takes is decoded, in the group its state names, as the operation the step performs (R95). -/
theorem decode_rxGroup (s : State) (b : Byte) (rest : List Byte) :
    decode (rxGroup s.fsm s.esc) (b :: rest) = .ok (s.rxInstr (.byte b), rest) := by
  cases hf : s.fsm with
  | hunt => rw [rxInstr_of_hunt b hf]; rfl
  | inframe => rw [rxInstr_of_inframe b hf rfl]; rfl

/-- Settles O7: what decodes is the operation the step selects. -/
theorem stepRunsTheDecodedOperation : Obligations.StepRunsTheDecodedOperation := by
  intro s rest i _
  refine ⟨fun b a hi hdec => ?byte, fun a hi hdec => ?close, fun a hi hdec => ?reset, fun b hi hdec => ?txByte⟩
  case byte =>
    rw [decode_rxGroup] at hdec
    cases hdec
    exact step_rx hi
  case close | reset => cases hdec; exact step_rx hi
  case txByte => cases hdec; exact step_txByte hi

/-- Settles O8: a step with nothing to take is the idle step. -/
theorem unitWithoutInputHoldsItsState : Obligations.UnitWithoutInputHoldsItsState :=
  fun _ hi => step_idle hi

end Sys2Proof.Machine

/-! SUPPORT. The remaining statements of `40_bcd.md`: the codes of the digit characters, and the round trips between
the decoder and the reference encoder, which pack and unpack two characters a byte. -/

namespace Sys2Proof.Machine

/-! ### The codes of the digit characters -/

/-- `0` to `9` stand at 0x30 (`40_bcd.md` R121; log 15). -/
theorem hexchar_toNat_of_le {d : Nibble} (h : d.toNat ≤ 9) : (hexchar d).toNat = 0x30 + d.toNat := by
  rw [hexchar, if_pos (BitVec.le_def.mpr h)]
  simp only [BitVec.toNat_add, BitVec.toNat_setWidth, BitVec.ofNat_eq_ofNat, BitVec.toNat_ofNat]
  omega

/-- `A` to `F` stand at 0x41 (R121; log 15). -/
theorem hexchar_toNat_of_ge {d : Nibble} (h : 10 ≤ d.toNat) : (hexchar d).toNat = 0x41 + (d.toNat - 10) := by
  have hd := d.isLt
  rw [hexchar, if_neg (fun hle => Nat.not_le.mpr h (BitVec.le_def.mp hle))]
  simp only [BitVec.toNat_add, BitVec.toNat_setWidth, BitVec.ofNat_eq_ofNat, BitVec.toNat_ofNat]
  omega

/-- Settles O36: the two ranges of `hexchar`. -/
theorem hexcharIsTheUpperCaseDigit : Obligations.HexcharIsTheUpperCaseDigit :=
  fun _ => ⟨hexchar_toNat_of_le, hexchar_toNat_of_ge⟩

theorem isDigit_iff {c : Byte} : isDigit c = true ↔ 0x30 ≤ c.toNat ∧ c.toNat ≤ 0x39 := by
  simp [isDigit, BitVec.le_def]

theorem isDigit_hexchar {d : Nibble} (h : d.toNat ≤ 9) : isDigit (hexchar d) = true := by
  rw [isDigit_iff, hexchar_toNat_of_le h]
  omega

/-- A digit character is that of the nibble it exceeds 0x30 by. -/
theorem hexchar_eq_of_toNat {d : Nibble} {c : Byte} (hle : d.toNat ≤ 9) (h : 0x30 + d.toNat = c.toNat) :
    hexchar d = c :=
  BitVec.eq_of_toNat_eq ((hexchar_toNat_of_le hle).trans h)

theorem nibbles_le_of_decimal {b : Byte} (h : nibblesDecimal b = true) :
    (hiNibble b).toNat ≤ 9 ∧ (loNibble b).toNat ≤ 9 := by
  rw [hiNibble_toNat, loNibble_toNat]
  exact (nibblesDecimal_iff b).mp h

/-- The characters of bytes with decimal nibbles are digits (R121, R123). -/
theorem isDigit_of_mem_bcdString {bs : List Byte} (h : ∀ b ∈ bs, nibblesDecimal b = true) :
    ∀ c ∈ bcdString bs, isDigit c = true := by
  intro c hc
  obtain ⟨b, hb, hcb⟩ := List.mem_flatMap.mp hc
  obtain ⟨hhi, hlo⟩ := nibbles_le_of_decimal (h b hb)
  obtain rfl | rfl : c = hexchar (hiNibble b) ∨ c = hexchar (loNibble b) := by simpa [bcdChars] using hcb
  · exact isDigit_hexchar hhi
  · exact isDigit_hexchar hlo

/-! ### Two digits a byte -/

/-- The byte that holds two digit characters (R125). -/
def packedByte (hi lo : Byte) : Byte := (hi - 0x30) * 16 + (lo - 0x30)

theorem packDigits_cons_cons (hi lo : Byte) (rest : List Byte) :
    packDigits (hi :: lo :: rest) = packedByte hi lo :: packDigits rest := rfl

theorem packedByte_toNat {hi lo : Byte} (hhi : isDigit hi = true) (hlo : isDigit lo = true) :
    (packedByte hi lo).toNat = (hi.toNat - 0x30) * 16 + (lo.toNat - 0x30) := by
  rw [isDigit_iff] at hhi hlo
  simp only [packedByte, BitVec.toNat_add, BitVec.toNat_mul, BitVec.toNat_sub, BitVec.ofNat_eq_ofNat,
    BitVec.toNat_ofNat]
  omega

/-- The two characters of a byte made of two digits are those digits. -/
theorem bcdChars_packedByte {hi lo : Byte} (hhi : isDigit hi = true) (hlo : isDigit lo = true) :
    bcdChars (packedByte hi lo) = [hi, lo] := by
  have hbyte := packedByte_toNat hhi hlo
  have hhiNibble := hiNibble_toNat (packedByte hi lo)
  have hloNibble := loNibble_toNat (packedByte hi lo)
  rw [isDigit_iff] at hhi hlo
  rw [bcdChars, hexchar_eq_of_toNat (c := hi) (by omega) (by omega),
    hexchar_eq_of_toNat (c := lo) (by omega) (by omega)]

/-- A byte with decimal nibbles is made of its two characters. -/
theorem packedByte_hexchar {b : Byte} (h : nibblesDecimal b = true) :
    packedByte (hexchar (hiNibble b)) (hexchar (loNibble b)) = b := by
  obtain ⟨hhi, hlo⟩ := nibbles_le_of_decimal h
  apply BitVec.eq_of_toNat_eq
  rw [packedByte_toNat (isDigit_hexchar hhi) (isDigit_hexchar hlo), hexchar_toNat_of_le hhi,
    hexchar_toNat_of_le hlo, hiNibble_toNat, loNibble_toNat]
  omega

/-- Digits packed and unpacked again, where no digit is left over (R126). -/
theorem bcdString_packDigits (t : List Byte) (hdigit : ∀ c ∈ t, isDigit c = true) (heven : t.length % 2 = 0) :
    bcdString (packDigits t) = t := by
  induction t using packDigits.induct with
  | case1 hi lo rest ih =>
    simp only [List.forall_mem_cons] at hdigit
    obtain ⟨hhi, hlo, hrest⟩ := hdigit
    have hrestEven : rest.length % 2 = 0 := by rw [List.length_cons, List.length_cons] at heven; omega
    calc bcdString (packDigits (hi :: lo :: rest))
        = bcdChars (packedByte hi lo) ++ bcdString (packDigits rest) := rfl
      _ = hi :: lo :: rest := by rw [bcdChars_packedByte hhi hlo, ih hrest hrestEven]; rfl
  | case2 c => simp at heven
  | case3 => rfl

/-- Bytes with decimal nibbles unpacked and packed again (R126). -/
theorem packDigits_bcdString {bs : List Byte} (h : ∀ b ∈ bs, nibblesDecimal b = true) :
    packDigits (bcdString bs) = bs := by
  induction bs with
  | nil => rfl
  | cons b bs ih =>
    obtain ⟨hb, hbs⟩ := List.forall_mem_cons.mp h
    rw [bcdString_cons, packDigits_cons_cons, packedByte_hexchar hb, ih hbs]

/-! ### The right-aligned string -/

/-- The string is cut, or filled on the left, to exactly `2 * k` characters (R125). -/
theorem rightAligned_length (s : List Byte) (k : Nat) : (rightAligned s k).length = 2 * k := by
  unfold rightAligned
  dsimp only
  split
  · rw [List.length_drop]; omega
  · rw [List.length_append, List.length_replicate]; omega

/-- Only zeros are filled in (R125). -/
theorem isDigit_of_mem_rightAligned {s : List Byte} (k : Nat) (h : ∀ c ∈ s, isDigit c = true) :
    ∀ c ∈ rightAligned s k, isDigit c = true := by
  have hpad : ∀ c ∈ padEven s, isDigit c = true := by
    unfold padEven
    split
    · exact List.forall_mem_cons.mpr ⟨rfl, h⟩
    · exact h
  intro c hc
  unfold rightAligned at hc
  dsimp only at hc
  split at hc
  · exact hpad c (List.mem_of_mem_drop hc)
  · obtain hzero | hmem := List.mem_append.mp hc
    · rw [List.eq_of_mem_replicate hzero]; rfl
    · exact hpad c hmem

/-- A string of `2 * k` characters stays as it is (R125). -/
theorem rightAligned_of_length {s : List Byte} {k : Nat} (h : s.length = 2 * k) : rightAligned s k = s := by
  have hpad : padEven s = s := if_neg (by omega)
  simp [rightAligned, hpad, h]

/-! ### The two answers of the encoder, and the round trips -/

theorem encodeBCD_of_digits {s : List Byte} (k : Nat) (h : ∀ c ∈ s, isDigit c = true) :
    encodeBCD s k = .ok (packDigits (rightAligned s k)) := if_pos (List.all_eq_true.mpr h)

/-- A string with a character outside `0` to `9` is refused (R125). -/
theorem encodeBCD_of_other {s : List Byte} {c : Byte} (k : Nat) (hc : c ∈ s) (h : ¬ isDigit c = true) :
    encodeBCD s k = .error .notDecimalDigit := if_neg (fun hall => h (List.all_eq_true.mp hall c hc))

/-- The decoder over all bytes it is given. -/
theorem decodeBCD_all {bytes : List Byte} {n : Nat} (h : bytes.length = n) :
    decodeBCD bytes 0 n = .ok (bcdString bytes) := by
  rw [decodeBCD_of_le (by omega), List.drop_zero, List.take_of_length_le (by omega)]

/-- Settles O37: packing the right-aligned string loses no digit of it, and the string of six bytes with decimal
nibbles is right-aligned already. -/
theorem bcdRoundTrips : Obligations.BcdRoundTrips := by
  refine ⟨fun s n h => ?encoded, fun t h => ?decoded, ?refused⟩
  case encoded =>
    have hdigits : ∀ c ∈ s, isDigit c = true := fun c hc => isDigit_iff.mpr (h c hc)
    have hlength := rightAligned_length s n
    have hback : bcdString (packDigits (rightAligned s n)) = rightAligned s n :=
      bcdString_packDigits _ (isDigit_of_mem_rightAligned n hdigits) (by omega)
    have hbytes : (packDigits (rightAligned s n)).length = n := by
      have := congrArg List.length hback
      rw [bcdString_length] at this
      omega
    exact ⟨_, encodeBCD_of_digits n hdigits, hbytes, by rw [decodeBCD_all hbytes, hback], hlength⟩
  case decoded =>
    have hdecimal : ∀ b ∈ t.bytes, nibblesDecimal b = true := List.all_eq_true.mp h
    refine ⟨_, decodeBCD_all rfl, ?_⟩
    rw [encodeBCD_of_digits 6 (isDigit_of_mem_bcdString hdecimal), rightAligned_of_length (k := 6) (bcdString_length _),
      packDigits_bcdString hdecimal]
  case refused =>
    rintro s n ⟨c, hc, hout⟩
    refine encodeBCD_of_other n hc ?_
    rw [isDigit_iff]
    omega

end Sys2Proof.Machine

/-! SUPPORT. The remaining statements of `41_escape_codec.md`: the encoder's steps over a sequence, and what `Escape`
and `Unescape` do to its length. -/

namespace Sys2Proof.Machine

/-- Settles O39, by induction on the bytes taken: each step puts out what the encoder gives for one byte. -/
theorem encoderStepsComputeEscape : Obligations.EncoderStepsComputeEscape := by
  intro s xs rest hi
  induction xs generalizing s with
  | nil =>
    obtain rfl : s.inputs = rest := hi
    simp [core_run_zero, escape]
  | cons b xs ih =>
    have hstep : step s = .next (State.putEncoded { s with inputs := xs.map Input.txByte ++ rest } (encByte b)) :=
      (step_txByte hi).trans (exec_decodeTx b _)
    rw [List.length_cons, core_run_succ _ hstep, ih _ rfl, escape_cons, ← List.append_assoc]
    rfl

/-- Each pair that is an escape gives one byte, any other byte is copied (R140). -/
theorem unescape_length_le (x : List Byte) : (unescape x).length ≤ x.length := by
  induction x using unescape.induct with
  | case1 | case2 => exact Nat.le_refl _
  | case3 c d rest h ih => rw [unescape, if_pos h]; simp only [List.length_cons]; omega
  | case4 c d rest h h' ih => rw [unescape, if_neg h, if_pos h']; simp only [List.length_cons]; omega
  | case5 c d rest h h' ih =>
    rw [unescape, if_neg h, if_neg h']
    simp only [List.length_cons] at ih ⊢
    omega

/-- Settles O40: what the encoder gives for each byte, and the two lengths. -/
theorem escapedBytesHoldNoDelimiter : Obligations.EscapedBytesHoldNoDelimiter := by
  intro x
  obtain ⟨hlow, hhigh⟩ := escape_length_bounds x
  exact ⟨delim_notMem_escape x, hlow, hhigh, unescape_length_le x⟩

end Sys2Proof.Machine

/-! SUPPORT. The statements of `60_exceptions.md` about the completion checks and about the operations' answers, and the
invariant's start of `10_state.md`. -/

namespace Sys2Proof.Machine

/-! ### The completion checks in their order -/

section Checks
variable {cfg : Config.Params} {rd : Nat → Byte} {n : BitVec 11} {x : Byte} {a : Bool}

/-- An empty payload is too short before anything else is looked at (`60_exceptions.md` R315). -/
theorem complete_of_empty (hn : n.toNat = 0) : complete cfg rd n x a = raiseDiscard .tooShort n none :=
  if_pos (BitVec.eq_of_toNat_eq hn)

/-- A payload without room for header and checksum (`43_checksum.md` R203). -/
theorem complete_of_no_header (hlow : 1 ≤ n.toNat) (hhigh : n.toNat ≤ 12) (hx : x = 0) :
    complete cfg rd n x a = raiseDiscard .tooShort n none := by
  have hempty : n ≠ 0 := by rintro rfl; simp at hlow
  have hsum : ¬ (!csOk x) = true := by simp [csOk, hx]
  have hmin : n.toNat - 1 < Config.hdrLen := by have : Config.hdrLen = 12 := rfl; omega
  rw [complete, if_neg hempty, if_neg hsum, if_pos hmin]

end Checks

/-- Settles O22, by the first check that fails; what passes them all is dispatched on the `n - 13` body bytes, and the
operation's minimum decides (`45_dispatch.md` R258). -/
theorem completionChecksInOrder : Obligations.CompletionChecksInOrder := by
  intro cfg rd n x a h out rec0
  refine ⟨complete_of_empty, fun hlow hx => ?checksum, complete_of_no_header, fun hn hx => ?parsed⟩
  case checksum =>
    have hempty : n ≠ 0 := by rintro rfl; simp at hlow
    exact complete_of_checksum_fails hempty hx
  case parsed =>
    have hout := complete_of_header_parsed (cfg := cfg) (rd := rd) (a := a) hn hx
    refine ⟨fun hstrict hrsvd => hout.trans (if_pos ⟨hstrict, hrsvd⟩), fun hflags => ?_⟩
    have hpass : ¬ (cfg.strictFlags = true ∧ (parseHeader rd).rsvd ≠ 0) := by
      rintro ⟨hstrict, hrsvd⟩
      exact hflags.elim (by simp [hstrict]) hrsvd
    rw [if_neg hpass] at hout
    refine ⟨fun hlen => hout.trans (if_pos hlen), fun hlen => ?_⟩
    rw [if_neg (not_not_intro hlen)] at hout
    refine ⟨fun hshort => ?short, fun hlong => ?long⟩
    case short => exact hout.trans (dispatchOut_of_short _ _ _ (by simpa using hshort))
    case long =>
      obtain ⟨e, he, hhdr, hbody⟩ := dispatchOut_of_long cfg (selectMsg (parseHeader rd).messageId)
        { n := n, hdr := parseHeader rd, body := bytesAt rd Config.hdrLen (n.toNat - 13), authOk := a }
        (by simpa using hlong)
      exact ⟨e, hout.trans he, hhdr, hbody⟩

/-! ### Every operation is performed -/

/-- Settles O50: the meaning of every operation is a next state, whatever it finds in the unit. -/
theorem everyOperationAnswersNext : Obligations.EveryOperationAnswersNext := by
  intro i s
  cases i with
  | skip | sof | data | esc | esc02 | esc01 | esc7d | escx | eof | close | reset => exact ⟨_, rfl⟩
  | enc7e | enc7d | enclit => exact ⟨_, rfl⟩
  | termAck | heartbeat | register | auth | location | text | ctrlResp | passthru | timesync | unrecognized =>
    exact ⟨_, rfl⟩

/-- Settles O58: the reset state is in HUNT with `esc` 0, and nothing of `PB` is listed. -/
theorem invariantHoldsAtReset : Obligations.InvariantHoldsAtReset := inv_of_hunt rfl rfl rfl

end Sys2Proof.Machine
